-- ==== Sys2Proof/Word.lean ====
section
/-! DEFINITION. The plain value types of the Cadrel 1608: words, halves, bytes and slot numbers
(00_scope.md, Names and numbers; Exchange memory words). -/

namespace Sys2Proof

/-- A 32-bit word: a register, an exchange memory field, a stamp of the timebase. -/
abbrev Word := BitVec 32

/-- A 16-bit half word: a requester id, a free-running ring index. -/
abbrev Half := BitVec 16

/-- One byte of exchange memory or of a completion's data. -/
abbrev Byte := BitVec 8

/-- A slot number, 0 to 7. -/
abbrev Slot := Fin 8

/-- A record that can hold an order: 0 to 7 the slot records, 8 the common record (R157). -/
abbrev RecordNo := Fin 9

/-- A position of the Pending Request Table, 0 to 95 (chapter 2.1). -/
abbrev Position := Fin 96

/-- The eight slots in rising order. -/
def allSlots : List Slot := [0, 1, 2, 3, 4, 5, 6, 7]

end Sys2Proof
end

