-- ==== Sys2Proof/Syntax.lean ====
section
/-! DEFINITION. The commands of the part: one constructor of `Instr` per row of
spec/opcode_table.json, with the traffic items that some of them carry (00_scope.md, Transaction
vocabulary). -/

namespace Sys2Proof

/-- The status of a completion (00_scope.md, Transaction vocabulary). -/
inductive Status where
  | success
  | unsupported
  | abort
  | retry
deriving DecidableEq, Repr

/-- The kind of a host non-posted request with its target: a memory address for MEMORY READ, a
config byte offset for the config kinds (Table 4, Table 2-1). -/
inductive NonPosted where
  | memoryRead (address : BitVec 64)
  | configRead (offset : BitVec 12)
  | configWrite (offset : BitVec 12)
deriving DecidableEq, Repr

/-- A host non-posted request. `length` is in dwords; `data` is the dword of a CONFIG WRITE. -/
structure HostRequest where
  kind : NonPosted
  requester : Half
  tag : BitVec 10
  length : Nat
  data : List Byte
deriving DecidableEq, Repr

/-- A host posted write, or a message request, which is handled as MEMORY WRITE (R11). -/
inductive PostedForm where
  | memoryWrite
  | message
deriving DecidableEq, Repr

/-- A posted item from the host side. -/
structure PostedWrite where
  form : PostedForm
  requester : Half
  tag : BitVec 10
  address : BitVec 64
  length : Nat
  data : List Byte
deriving DecidableEq, Repr

/-- The two kinds of card-originated request (chapter 1.1, class 4). -/
inductive CardForm where
  | memoryWrite
  | memoryRead
deriving DecidableEq, Repr

/-- A request that the card sends toward host memory. `length` is in dwords. -/
structure CardRequest where
  form : CardForm
  requester : Half
  tag : BitVec 10
  address : BitVec 64
  length : Nat
  data : List Byte
deriving DecidableEq, Repr

/-- A completion: from a card, from the host toward a card, or a stand-in of the part. -/
structure Completion where
  requester : Half
  tag : BitVec 10
  status : Status
  byteCount : Nat
  data : List Byte
deriving DecidableEq, Repr

/-- The target of a host write over the management link that has no row of its own: five of the
eight registers (R155), or exchange memory itself, which the host may write at any time
(chapter 9.2). That the form stands under this row is a DESIGN CHOICE, safe (notes/assumptions/4.md). -/
inductive PlainTarget where
  | ident
  | cause
  | noticeMask
  | noticeProduce
  | timebase
  | exchangeByte (address : Half)
  | exchangeWord (address : Half)
deriving DecidableEq, Repr

/-- The levels of the part's inputs at a power-on reset (R114, R134, R136, R171): bit s is slot s. -/
structure InputLevels where
  present : BitVec 8
  powerGood : BitVec 8
  alert : BitVec 8
  autostart : Bool
deriving DecidableEq, Repr

/-- The part's commands, in the order of spec/opcode_table.json. A row about a group is addressed by
any member's slot and acts on the group; an order's row is addressed by its record. -/
inductive Instr where
  | hostNonPostedRequest (slot : Slot) (req : HostRequest)
  | hostPostedWrite (slot : Slot) (write : PostedWrite)
  | cardCompletion (slot : Slot) (completion : Completion)
  | cardOriginatedRequest (slot : Slot) (req : CardRequest)
  | hostCompletionTowardCard (slot : Slot) (completion : Completion)
  | poolHeadServed
  | expirySweep
  | fabricEntryExpiry (position : Position)
  | probeRestoreEntryExpiry (position : Position)
  | decayTick (slot : Slot)
  | drainEmpty (slot : Slot)
  | drainLimitExpiry (slot : Slot)
  | resetHoldEnd (slot : Slot)
  | trainLimitExpiry (slot : Slot)
  | retryWaitEnd (slot : Slot)
  | probeLimitExpiry (slot : Slot)
  | dischargeTimerStop (slot : Slot)
  | grant
  | powerGoodRise (slot : Slot)
  | powerGoodFall (slot : Slot)
  | powerGoodLimitExpiry (slot : Slot)
  | stabilityDwellEnd (slot : Slot)
  | linkUp (slot : Slot)
  | linkDown (slot : Slot)
  | presenceLoss (slot : Slot)
  | presenceGain (slot : Slot)
  | alertEdge (slot : Slot) (level : Bool)
  | indicatorBlinkToggle (slot : Slot)
  | pauseEnd (slot : Slot)
  | orderTaking (record : RecordNo)
  | orderNone (record : RecordNo)
  | unknownOrder (record : RecordNo)
  | configure (slot : Slot)
  | bringUp (slot : Slot)
  | isolate (slot : Slot)
  | resume (slot : Slot)
  | recover (slot : Slot)
  | powerDown (slot : Slot)
  | cancel (slot : Slot)
  | refill (slot : Slot)
  | locate (slot : Slot)
  | listPending (slot : Slot)
  | setCommon
  | controlWrite (value : Word)
  | controlReset (value : Word)
  | attentionWrite (value : Word)
  | causeRead
  | noticeConsumeWrite (value : Word)
  | registerWrite (target : PlainTarget) (value : Word)
  | powerOnReset (inputs : InputLevels)
  | ready
deriving DecidableEq, Repr

end Sys2Proof
end

