-- ==== Sys2Proof/Config.lean ====
section
/-! DEFINITION. What the spec leaves to the implementation or leaves open: constants with no body, so
that no proof can lean on their values. -/

namespace Sys2Proof

/-- IDENT bits 23:16: "revision, a constant of the part that no event changes" (Table 9-1). The spec
gives no value. DESIGN CHOICE, safe (notes/assumptions/20.md). -/
opaque Config.revision : BitVec 8

/-- The order of two entries of equal issue stamp at a fence, which R4 and R45 leave open ("taken in
any order"): the entry with the lower rank goes first. The first argument is the draw, the
second the entry's position. Free value: DESIGN CHOICE, safe (notes/assumptions/6.md). -/
opaque Config.fenceRank : Nat → Nat → Nat

/-- A data byte that a completion counted in its byte count and did not carry, where a probe's
identity needs it: the spec states no value for it. The argument is the draw. Free value:
DESIGN CHOICE, safe (notes/assumptions/7.md). -/
opaque Config.uncarriedByte : Nat → Byte

end Sys2Proof
end

