-- ==== Sys2Proof/Machine/State.lean ====
section
/-! DEFINITION. The state of the Cadrel 1608 as plain data: every register, table, list, counter,
timer and line that the spec gives the part, with the values of Table 10-1 after a power-on reset. -/

namespace Sys2Proof.Machine

/-- A running duration: the count at its start and its length in microseconds (R169). -/
structure Timer where
  start : Word
  duration : Nat
deriving DecidableEq, Repr

/-- A duration code: count C and step selector (R1). -/
structure DurCode where
  count : BitVec 8
  sel : BitVec 2
deriving DecidableEq, Repr

/-- What an automatic trigger does (Table 3-6). -/
inductive Policy where
  | observe
  | isolate
  | recover
deriving DecidableEq, Repr

/-- The alert edge select (R136). -/
inductive AlertSelect where
  | none
  | rising
  | falling
  | both
deriving DecidableEq, Repr

/-- The working settings of one slot, latched by CONFIGURE (Table 9-4, Table 9-10). `ones` is the
answer style: true ONES, false ERROR. -/
structure Settings where
  join : Bool
  lock : Bool
  ones : Bool
  policy : Policy
  alertSelect : AlertSelect
  quota : Nat
  allotment : Nat
  attemptsPerLevel : Nat
  startLevel : Nat
  maxLevel : Nat
  dataLimit : DurCode
  configLimit : DurCode
  drainLimit : DurCode
  resetHold : DurCode
  powerGoodLimit : DurCode
  stabilityDwell : DurCode
  dischargeDwell : DurCode
  trainLimit : DurCode
  probeLimit : DurCode
  decayPeriod : DurCode
  weightTimeout : Nat
  weightLate : Nat
  weightStray : Nat
  weightMalformed : Nat
  weightLinkDown : Nat
  weightAlert : Nat
  decayStep : Nat
  warn : Nat
  isolate : Nat
  identity : Word
  imageBase : Nat
  imageLength : Nat
  ringBase : Nat
  ringCount : Nat
deriving DecidableEq, Repr

/-- The default working settings of Table 9-10. -/
def Settings.default : Settings where
  join := false
  lock := false
  ones := false
  policy := .isolate
  alertSelect := .none
  quota := 12
  allotment := 16
  attemptsPerLevel := 2
  startLevel := 1
  maxLevel := 3
  dataLimit := ⟨64, 1⟩
  configLimit := ⟨0, 2⟩
  drainLimit := ⟨32, 2⟩
  resetHold := ⟨25, 2⟩
  powerGoodLimit := ⟨50, 2⟩
  stabilityDwell := ⟨25, 2⟩
  dischargeDwell := ⟨8, 3⟩
  trainLimit := ⟨25, 2⟩
  probeLimit := ⟨16, 3⟩
  decayPeriod := ⟨16, 3⟩
  weightTimeout := 64
  weightLate := 16
  weightStray := 16
  weightMalformed := 32
  weightLinkDown := 255
  weightAlert := 32
  decayStep := 8
  warn := 128
  isolate := 256
  identity := 0
  imageBase := 0
  imageLength := 0
  ringBase := 0
  ringCount := 0

/-- A request that a gate holds, with the timebase value of its arrival (R8). -/
structure HeldRequest where
  req : HostRequest
  arrival : Word
deriving DecidableEq, Repr

/-- The state of one Slot Gate. The gate state is not here: Table 1-2 gives it from the sequencer
state (R3). `kept` are the host non-posted requests that wait in the host-side port while the
gate holds one (R8). The discard counts are saturating 32-bit counts (R21). -/
structure Gate where
  held : Option HeldRequest
  kept : List HostRequest
  postedDiscarded : Nat
  cardDiscarded : Nat
deriving DecidableEq, Repr

/-- One slot's abort ring as the part holds it: produce index, records not written, and the
ring-full mark (R167, R168). -/
structure AbortRing where
  produce : Half
  notWritten : Nat
  full : Bool
deriving DecidableEq, Repr

/-- The six health event counts, 0 to 65,535 each (R58). -/
structure EventCounts where
  timeout : Nat
  late : Nat
  stray : Nat
  malformed : Nat
  linkDown : Nat
  alert : Nat
deriving DecidableEq, Repr

/-- A decay phase: its start stamp, the period read at its start, and the ticks taken since (R59). -/
structure DecayPhase where
  start : Word
  period : Nat
  ticks : Nat
deriving DecidableEq, Repr

/-- The state of one Health Meter (Table 3-1). -/
structure Meter where
  score : Nat
  warnArmed : Bool
  isolateArmed : Bool
  decay : Option DecayPhase
  counts : EventCounts
deriving DecidableEq, Repr

/-- The twelve sequencer states (Table 4-2). -/
inductive SeqState where
  | vacant
  | unpowered
  | awaitPower
  | powering
  | resetting
  | training
  | probing
  | restoring
  | online
  | draining
  | isolated
  | failed
deriving DecidableEq, Repr

/-- The sequence in flight (Table 4-1). -/
inductive Flight where
  | none
  | bringUp
  | recover
  | isolate
  | powerDown
  | autoIsolate
  | autoRecover
deriving DecidableEq, Repr

/-- Where DRAINING goes when it ends (Table 4-1). -/
inductive Destination where
  | isolated
  | ladder
  | powerOff
deriving DecidableEq, Repr

/-- The causes of state changes (Table 4-3). -/
inductive Cause where
  | powerOn
  | arrived
  | removed
  | order
  | score
  | linkDown
  | sequence
  | drainExpired
  | trainLimit
  | probeOnes
  | probeError
  | probeExpired
  | probeLimit
  | restoreFault
  | powerGoodLimit
  | powerGoodLost
  | ladderExhausted
  | identityMismatch
  | imageError
  | railFault
  | cancelled
deriving DecidableEq, Repr

/-- The probe state of one member in PROBING (Table 4-1): WAITING_ENTRY, OUTSTANDING, RETRY_WAIT with
its timer, DONE. -/
inductive ProbeState where
  | waitingEntry
  | outstanding
  | retryWait (timer : Timer)
  | answered
deriving DecidableEq, Repr

/-- The record of one Recovery Sequencer (Table 4-1). `limit` is the one group-wide limit that runs in
the present state: the drain limit in DRAINING, the reset hold in RESETTING, the train limit in
TRAINING, the probe limit in PROBING, the power-good limit in POWERING. `probeLimitPassed` and
`fixedOutcome` belong to PROBING (R90, R110). `grant` is the amount of the grant held (R124). -/
structure Sequencer where
  state : SeqState
  flight : Flight
  destination : Option Destination
  level : Nat
  startLevel : Nat
  maxLevel : Nat
  attempts : Nat
  allowance : Nat
  cause : Cause
  causeStamp : Word
  railKept : Bool
  discharge : Option Timer
  cancelPending : Bool
  limit : Option Timer
  probeLimitPassed : Bool
  fixedOutcome : Option Cause
  grant : Option Nat
deriving DecidableEq, Repr

/-- The indicator patterns (Table 7-2). -/
inductive Pattern where
  | off
  | steadyOn
  | fastBlink
  | slowBlink
  | locateBlink
deriving DecidableEq, Repr

/-- An indicator output: its pattern, its level, and the count at which that level began (R138). -/
structure Indicator where
  pattern : Pattern
  lit : Bool
  since : Word
deriving DecidableEq, Repr

/-- The lines of one slot (Tables 6-1 and 7-1), and for POWERING the risen mark and the stability dwell
of the member (chapter 6.2). Inputs are held as their last reported levels (R114, R134, R136). -/
structure Lines where
  rail : Bool
  powerGood : Bool
  resetAsserted : Bool
  clock : Bool
  linkDisabled : Bool
  linkUp : Bool
  present : Bool
  alert : Bool
  locate : Bool
  indicator : Indicator
  risen : Bool
  dwell : Option Timer
  dwellEnded : Bool
deriving DecidableEq, Repr

/-- An item that leaves a port of a gate (R2). -/
inductive PortItem where
  | request (req : HostRequest)
  | posted (write : PostedWrite)
  | cardRequest (req : CardRequest)
  | completion (completion : Completion)
deriving DecidableEq, Repr

/-- Everything the part holds for one slot. `hostOut` and `cardOut` are the streams of items sent out of
the host-side port and out of the slot port, oldest first (R2). -/
structure SlotRec where
  settings : Settings
  gate : Gate
  ring : AbortRing
  meter : Meter
  seq : Sequencer
  lines : Lines
  probe : Option ProbeState
  hostOut : List PortItem
  cardOut : List PortItem
deriving DecidableEq, Repr

/-- The origin of a PRT entry (chapter 2). -/
inductive Origin where
  | fabric
  | probe
  | restore
deriving DecidableEq, Repr

/-- A live entry of the Pending Request Table (Table 2-1). `answered` are the data bytes that a probe
read has received so far, in order (R34). -/
structure Entry where
  slot : Slot
  origin : Origin
  kind : NonPosted
  requester : Half
  tag : BitVec 10
  length : Nat
  owed : Nat
  issue : Word
  progress : Word
  answered : List Byte
deriving DecidableEq, Repr

/-- A claimant of the pool wait list (Table 2-3). -/
inductive Claimant where
  | gate (slot : Slot)
  | probe (slot : Slot)
  | restore
deriving DecidableEq, Repr

/-- An entry of the retired tag list (Table 2-4). -/
structure RetiredTag where
  slot : Slot
  requester : Half
  tag : BitVec 10
deriving DecidableEq, Repr

/-- A sweep in progress: the timebase value at which it began, and the positions still to visit (R42). -/
structure Sweep where
  now : Word
  left : List Nat
deriving DecidableEq, Repr

/-- The Pending Request Table: the live entries by position in rising order, the pool wait list head
first, the retired tag list oldest first, and the sweep in progress. -/
structure PrtState where
  entries : List (Nat × Entry)
  pool : List Claimant
  retired : List RetiredTag
  sweep : Option Sweep
deriving DecidableEq, Repr

/-- Arbitration mode (R122). -/
inductive ArbMode where
  | arrival
  | slotOrder
deriving DecidableEq, Repr

/-- An entry of the grant wait list: the leader and the amount asked (R122). -/
structure Waiter where
  leader : Slot
  amount : Nat
deriving DecidableEq, Repr

/-- The Power Budget Arbiter (Table 6-3). The wait list stands in arrival order. -/
structure Arbiter where
  total : Nat
  mode : ArbMode
  granted : Nat
  waiters : List Waiter
deriving DecidableEq, Repr

/-- Restore mode (R141). -/
inductive RestoreMode where
  | sequential
  | rotate
deriving DecidableEq, Repr

/-- A writing item in progress (Table 8-1): DATA with its remaining count and the position of its next
data dword; REPEAT with its remaining count and its dword. -/
inductive ItemInProgress where
  | dataItem (remaining : Nat) (next : Nat)
  | repeatItem (remaining : Nat) (dword : Word)
deriving DecidableEq, Repr

/-- A restore job's record (Table 8-1). -/
structure Job where
  slot : Slot
  base : Nat
  length : Nat
  position : Nat
  item : Option ItemInProgress
  offset : Nat
  writesDone : Nat
  removalPending : Bool
deriving DecidableEq, Repr

/-- A paused job with its pause (R148). -/
structure PausedJob where
  job : Job
  pause : Timer
deriving DecidableEq, Repr

/-- The engine's phase (Table 8-2). CLAIM_WAIT holds the write's dword (R149). -/
inductive Phase where
  | idle
  | claimWait (dword : Word)
  | writeOut
deriving DecidableEq, Repr

/-- The Configuration Restore Engine: common settings, queue with the active job at its head, paused
jobs, phase and burst count (chapter 8). -/
structure Engine where
  mode : RestoreMode
  burstLength : Nat
  queue : List Job
  paused : List PausedJob
  phase : Phase
  burst : Nat
deriving DecidableEq, Repr

/-- The register window (Table 9-1), the sampled AUTOSTART strap (R171), the number of interrupt messages
sent (R166), and the value that the last CAUSE_READ returned. -/
structure HostRegs where
  ready : Bool
  autostart : Bool
  run : Bool
  intEnable : Bool
  attention : BitVec 9
  cause : BitVec 2
  noticeMask : BitVec 8
  produce : Half
  consume : Half
  interrupts : Nat
  readData : Option Word
deriving DecidableEq, Repr

/-- The state of the part. `pending` is the queue of waiting commands, `draws` the model's own counter of
free values read (notes/assumptions/6.md, 7.md). -/
structure State where
  pending : List Instr
  timebase : Word
  regs : HostRegs
  mem : List Host.Cell
  slots : Vector SlotRec 8
  prt : PrtState
  arb : Arbiter
  engine : Engine
  draws : Nat
deriving DecidableEq, Repr

/-- No meaning of this model faults: the spec gives every command an effect, and no command reaches an
address outside exchange memory. The type has no constructor. -/
inductive Fault where
deriving DecidableEq, Repr

/-- The reasons for a refusal. -/
inductive Refusal where
  /-- Raised by exec's arm of a command that has no meaning yet, and by nothing else. Safe: the machine
  stops, and no claim about such a command can be proved. No arm raises it now. -/
  | notModelled (mnemonic : String)
deriving DecidableEq, Repr

/-- The sequencer record after a power-on reset (R71): VACANT, or UNPOWERED at rest when the member is
present. -/
def Sequencer.initial (present : Bool) : Sequencer where
  state := if present then .unpowered else .vacant
  flight := .none
  destination := none
  level := 0
  startLevel := 1
  maxLevel := 3
  attempts := 0
  allowance := 3
  cause := .powerOn
  causeStamp := 0
  railKept := false
  discharge := none
  cancelPending := false
  limit := none
  probeLimitPassed := false
  fixedOutcome := none
  grant := none

/-- The lines after a power-on reset, with the inputs at their levels of that moment
(R113, R114, R119, R128, R130, R131, R134, R136, R137). The spec clears the risen mark and the dwell's end at
the entry into POWERING and gives them no value at reset: clear is a DESIGN CHOICE, unsafe
(notes/assumptions/35.md). -/
def Lines.initial (present powerGood alert : Bool) : Lines where
  rail := false
  powerGood := powerGood
  resetAsserted := true
  clock := false
  linkDisabled := false
  linkUp := false
  present := present
  alert := alert
  locate := false
  indicator := ⟨.off, false, 0⟩
  risen := false
  dwell := none
  dwellEnded := false

/-- One slot after a power-on reset (R3, R21, R51, R71, R162, R167). -/
def SlotRec.initial (present powerGood alert : Bool) : SlotRec where
  settings := Settings.default
  gate := ⟨none, [], 0, 0⟩
  ring := ⟨0, 0, false⟩
  meter := ⟨0, true, true, none, ⟨0, 0, 0, 0, 0, 0⟩⟩
  seq := Sequencer.initial present
  lines := Lines.initial present powerGood alert
  probe := none
  hostOut := []
  cardOut := []

/-- Slot `i` at the input levels of a power-on reset. -/
def SlotRec.atReset (l : InputLevels) (i : Nat) : SlotRec :=
  SlotRec.initial (l.present.getLsbD i) (l.powerGood.getLsbD i) (l.alert.getLsbD i)

/-- The part right after a power-on reset with the given input levels, before READY (R170, Table 10-1). The burst count
with no active job and the count at which a steady indicator's level began are 0: DESIGN CHOICE, unsafe
(notes/assumptions/39.md). -/
def State.powerOn (l : InputLevels) : State where
  pending := []
  timebase := 0
  regs := ⟨false, l.autostart, false, false, 0, 0, 0, 0, 0, 0, none⟩
  mem := []
  slots := #v[SlotRec.atReset l 0, SlotRec.atReset l 1, SlotRec.atReset l 2, SlotRec.atReset l 3,
    SlotRec.atReset l 4, SlotRec.atReset l 5, SlotRec.atReset l 6, SlotRec.atReset l 7]
  prt := ⟨[], [], [], none⟩
  arb := ⟨128, .arrival, 0, []⟩
  engine := ⟨.sequential, 8, [], [], .idle, 0⟩
  draws := 0

/-- The machine right after reset: a power-on reset with every input absent, low or clear. The input
levels are a DESIGN CHOICE, unsafe (notes/assumptions/1.md), and so are the risen mark and the stability dwell of
each slot (notes/assumptions/35.md), the burst count, and the count at which each indicator's level began
(notes/assumptions/39.md); `pending`, `draws`, `hostOut`, `cardOut`, `regs.interrupts` and
`regs.readData` are the model's own (notes/assumptions/5.md, 6.md, 21.md). Every other value is the spec's. -/
def State.reset : State := State.powerOn ⟨0, 0, 0, false⟩

end Sys2Proof.Machine
end

