-- ==== Sys2Proof/Machine/Operands.lean ====
section
/-! DEFINITION. The coded forms of the spec: duration codes (R1), the code values of Table 9-8, packed
words of the exchange memory layouts, the image item word (R156), and the parts of a settings area. -/

namespace Sys2Proof.Machine

/-- The step of a duration code's selector in microseconds (Table 3). -/
def DurCode.step (d : DurCode) : Nat :=
  if d.sel = 0 then 16 else if d.sel = 1 then 256 else if d.sel = 2 then 4096 else 65536

/-- The count N of a duration code: C, or 256 when C is 0 (R1). -/
def DurCode.steps (d : DurCode) : Nat := if d.count = 0 then 256 else d.count.toNat

/-- The duration in microseconds: N times the step (R1). -/
def DurCode.micros (d : DurCode) : Nat := d.steps * d.step

/-- The age of a stamp: (now - stamp) modulo 2^32 (00_scope.md, Timebase and ages). -/
def age (now stamp : Word) : Nat := (now - stamp).toNat

/-- A duration started at `t.start` has ended when the count has reached start + duration (R169). -/
def Timer.due (t : Timer) (now : Word) : Bool := decide (t.duration ≤ age now t.start)

/-- What is left of a running duration. -/
def Timer.remaining (t : Timer) (now : Word) : Nat := t.duration - age now t.start

/-! ### Codes (Table 9-8) -/

/-- Order codes. -/
inductive Order where
  | configure
  | bringUp
  | isolate
  | resume
  | recover
  | powerDown
  | cancel
  | refill
  | locate
  | listPending
  | setCommon
deriving DecidableEq, Repr

/-- The code of an order (Table 9-8). -/
def Order.code : Order → Nat
  | .configure => 1
  | .bringUp => 2
  | .isolate => 3
  | .resume => 4
  | .recover => 5
  | .powerDown => 6
  | .cancel => 7
  | .refill => 8
  | .locate => 9
  | .listPending => 10
  | .setCommon => 16

/-- The order that an order word names, where its code is known (Table 9-8, R159 test 1). -/
def orderOfWord (w : Word) : Option Order :=
  match w.toNat with
  | 1 => some .configure
  | 2 => some .bringUp
  | 3 => some .isolate
  | 4 => some .resume
  | 5 => some .recover
  | 6 => some .powerDown
  | 7 => some .cancel
  | 8 => some .refill
  | 9 => some .locate
  | 10 => some .listPending
  | 16 => some .setCommon
  | _ => none

/-- Results of orders and sequences. -/
inductive Result where
  | pending
  | ok
  | busy
  | badSetting
  | badOrder
  | notLeader
  | noCard
  | notReady
  | locked
  | idle
  | cancelled
  | ladderExhausted
  | identityMismatch
  | imageError
  | railFault
  | isolating
  | recovering
  | allowanceSpent
deriving DecidableEq, Repr

/-- The code of a result (Table 9-8). -/
def Result.code : Result → Nat
  | .pending => 1
  | .ok => 2
  | .busy => 3
  | .badSetting => 4
  | .badOrder => 5
  | .notLeader => 6
  | .noCard => 7
  | .notReady => 8
  | .locked => 9
  | .idle => 10
  | .cancelled => 11
  | .ladderExhausted => 12
  | .identityMismatch => 13
  | .imageError => 14
  | .railFault => 15
  | .isolating => 16
  | .recovering => 17
  | .allowanceSpent => 18

/-- The code of a sequencer state (Table 9-8). -/
def SeqState.code : SeqState → Nat
  | .vacant => 0
  | .unpowered => 1
  | .awaitPower => 2
  | .powering => 3
  | .resetting => 4
  | .training => 5
  | .probing => 6
  | .restoring => 7
  | .online => 8
  | .draining => 9
  | .isolated => 10
  | .failed => 11

/-- The code of a cause (Table 9-8). -/
def Cause.code : Cause → Nat
  | .powerOn => 0
  | .arrived => 1
  | .removed => 2
  | .order => 3
  | .score => 4
  | .linkDown => 5
  | .sequence => 6
  | .drainExpired => 7
  | .trainLimit => 8
  | .probeOnes => 9
  | .probeError => 10
  | .probeExpired => 11
  | .probeLimit => 12
  | .restoreFault => 13
  | .powerGoodLimit => 14
  | .powerGoodLost => 15
  | .ladderExhausted => 16
  | .identityMismatch => 17
  | .imageError => 18
  | .railFault => 19
  | .cancelled => 20

/-- Notice kinds. -/
inductive NoticeKind where
  | orderDone
  | autoAction
  | autoRecoveryEnded
  | healthWarn
  | cardArrived
  | cardRemoved
  | railFault
  | abortRingFull
deriving DecidableEq, Repr

/-- The code of a notice kind (Table 9-8). -/
def NoticeKind.code : NoticeKind → Nat
  | .orderDone => 1
  | .autoAction => 2
  | .autoRecoveryEnded => 3
  | .healthWarn => 4
  | .cardArrived => 5
  | .cardRemoved => 6
  | .railFault => 7
  | .abortRingFull => 8

/-- Abort reasons (Table 1-6). -/
inductive Reason where
  | expired
  | drainExpired
  | fenced
  | linkDown
  | railFault
  | removed
  | duplicateTag
  | malformed
deriving DecidableEq, Repr

/-- The code of an abort reason (Table 9-8). -/
def Reason.code : Reason → Nat
  | .expired => 1
  | .drainExpired => 2
  | .fenced => 3
  | .linkDown => 4
  | .railFault => 5
  | .removed => 6
  | .duplicateTag => 7
  | .malformed => 8

/-- Health event kinds (Table 3-3). -/
inductive EventKind where
  | timeout
  | late
  | stray
  | malformed
  | linkDown
  | alert
deriving DecidableEq, Repr

/-- The code of a health event kind (Table 9-8). -/
def EventKind.code : EventKind → Nat
  | .timeout => 1
  | .late => 2
  | .stray => 3
  | .malformed => 4
  | .linkDown => 5
  | .alert => 6

/-- The code of an origin; 0 is NONE (Table 9-8). -/
def Origin.code : Origin → Nat
  | .fabric => 1
  | .probe => 2
  | .restore => 3

/-- The code of a request kind (Table 9-8). -/
def requestKindCode : NonPosted → Nat
  | .memoryRead _ => 1
  | .configRead _ => 2
  | .configWrite _ => 3

/-- The address of a MEMORY READ, or the config offset, as 64 bits (Table 9-6 words 2 and 3). -/
def requestTarget : NonPosted → BitVec 64
  | .memoryRead a => a
  | .configRead o => o.setWidth 64
  | .configWrite o => o.setWidth 64

/-- Whether the request reads, and so is answered with data under ONES (Table 1-5). -/
def requestReads : NonPosted → Bool
  | .memoryRead _ => true
  | .configRead _ => true
  | .configWrite _ => false

/-! ### Packed words -/

/-- A word from its four bytes, bits 7:0 first. -/
def packBytes (b0 b1 b2 b3 : Nat) : Word :=
  BitVec.ofNat 32 (b0 % 256 + 256 * (b1 % 256) + 65536 * (b2 % 256) + 16777216 * (b3 % 256))

/-- A word from its lower and upper halves. -/
def packHalves (lo hi : Nat) : Word := BitVec.ofNat 32 (lo % 65536 + 65536 * (hi % 65536))

/-- Byte `k` of a word, 0 the least significant (exchange memory is little-endian). -/
def byteOf (w : Word) (k : Nat) : Byte := (w >>> (8 * k)).setWidth 8

/-- The word whose bytes, lowest first, are the four given ones. -/
def wordOfBytes (b0 b1 b2 b3 : Byte) : Word := b3 ++ b2 ++ b1 ++ b0

/-- The value of bits `lo + n - 1 : lo` of a word. -/
def field (w : Word) (lo n : Nat) : Nat := w.toNat / 2 ^ lo % 2 ^ n

/-- The duration code in the 16-bit half that starts at bit `lo`: count in bits 7:0 of the half,
selector in bits 9:8, bits 15:10 not read (Table 9-4). -/
def durCodeAt (w : Word) (lo : Nat) : DurCode :=
  ⟨BitVec.ofNat 8 (field w lo 8), BitVec.ofNat 2 (field w (lo + 8) 2)⟩

/-! ### Image items (R156, Table 8-3) -/

/-- An image item as its item word spells it. -/
inductive Item where
  | dataItem (count : Nat)
  | repeatItem (count : Nat)
  | seekItem (dwordOffset : Nat)
  | pauseItem (code : DurCode)
  | endItem
deriving DecidableEq, Repr

/-- The count of DATA and REPEAT: bits 7:0, where 0 stands for 256 (R156). -/
def itemCount (w : Word) : Nat := if field w 0 8 = 0 then 256 else field w 0 8

/-- The item of an item word; none for an unknown kind (R156). -/
def itemOfWord (w : Word) : Option Item :=
  match field w 28 4 with
  | 1 => some (.dataItem (itemCount w))
  | 2 => some (.repeatItem (itemCount w))
  | 3 => some (.seekItem (field w 0 10))
  | 4 => some (.pauseItem (durCodeAt w 0))
  | 15 => some .endItem
  | _ => none

/-- The span of an item in bytes (Table 8-3). -/
def Item.span : Item → Nat
  | .dataItem n => 4 + 4 * n
  | .repeatItem _ => 8
  | .seekItem _ => 4
  | .pauseItem _ => 4
  | .endItem => 4

/-- The run of a writing item in bytes of config space; 0 for the others (Table 8-3). -/
def Item.run : Item → Nat
  | .dataItem n => 4 * n
  | .repeatItem n => 4 * n
  | .seekItem _ => 0
  | .pauseItem _ => 0
  | .endItem => 0

/-! ### Settings codes (Table 9-4) -/

/-- The policy of its code; none when the code is above 2. -/
def policyOfCode : Nat → Option Policy
  | 0 => some .observe
  | 1 => some .isolate
  | 2 => some .recover
  | _ => none

/-- The alert select of its code; none when the code is above 3. -/
def alertSelectOfCode : Nat → Option AlertSelect
  | 0 => some .none
  | 1 => some .rising
  | 2 => some .falling
  | 3 => some .both
  | _ => none

/-- The code of the arbitration mode (Table 9-7). -/
def ArbMode.code : ArbMode → Nat
  | .arrival => 0
  | .slotOrder => 1

/-- The code of the restore mode (Table 9-7). -/
def RestoreMode.code : RestoreMode → Nat
  | .sequential => 0
  | .rotate => 1

/-- Whether a sequence in flight is an order in flight (R159 test 3). -/
def Flight.isOrder : Flight → Bool
  | .none => false
  | .bringUp => true
  | .recover => true
  | .isolate => true
  | .powerDown => true
  | .autoIsolate => false
  | .autoRecover => false

/-- The order that a sequence in flight carries out, where it is an order. -/
def Flight.order : Flight → Option Order
  | .none => .none
  | .bringUp => some .bringUp
  | .recover => some .recover
  | .isolate => some .isolate
  | .powerDown => some .powerDown
  | .autoIsolate => .none
  | .autoRecover => .none

end Sys2Proof.Machine
end

