-- ==== Sys2Proof/Machine/Ops.lean ====
section
/-! DEFINITION. The named operations over slots, groups and exchange memory that every meaning uses:
access to a slot's record, the groups that the join flags form (R102), reads and writes of exchange
memory (chapter 9.2), the outcome area (Table 9-5), the gate state (Table 1-2) and the indicator (R138). -/

namespace Sys2Proof.Machine

/-! ### Slots -/

/-- The record of slot `i`. -/
def State.slot (s : State) (i : Slot) : SlotRec := s.slots.get i

/-- The state with slot `i`'s record changed by `f`. -/
def State.modSlot (s : State) (i : Slot) (f : SlotRec → SlotRec) : State :=
  { s with slots := s.slots.set i.val (f (s.slot i)) i.isLt }

/-- Change slot `i`'s sequencer record. -/
def State.modSeq (s : State) (i : Slot) (f : Sequencer → Sequencer) : State :=
  s.modSlot i fun r => { r with seq := f r.seq }

/-- Change slot `i`'s lines. -/
def State.modLines (s : State) (i : Slot) (f : Lines → Lines) : State :=
  s.modSlot i fun r => { r with lines := f r.lines }

/-- Change slot `i`'s gate. -/
def State.modGate (s : State) (i : Slot) (f : Gate → Gate) : State :=
  s.modSlot i fun r => { r with gate := f r.gate }

/-- Change slot `i`'s Health Meter. -/
def State.modMeter (s : State) (i : Slot) (f : Meter → Meter) : State :=
  s.modSlot i fun r => { r with meter := f r.meter }

/-- Set slot `i`'s probe state. -/
def State.setProbe (s : State) (i : Slot) (p : Option ProbeState) : State :=
  s.modSlot i fun r => { r with probe := p }

/-- Apply a step for each slot of a list, in its order. -/
def eachSlot (l : List Slot) (f : Slot → State → State) (s : State) : State :=
  l.foldl (fun t m => f m t) s

/-! ### Groups (R102) -/

/-- The join flag of slot number `n` in the working settings. -/
def State.joinFlag (s : State) (n : Nat) : Bool := (s.slot (Fin.ofNat 8 n)).settings.join

/-- The leader of slot number `n`: the lowest slot reached downwards over set join flags. -/
def leaderIndex (join : Nat → Bool) : Nat → Nat
  | 0 => 0
  | n + 1 => if join n then leaderIndex join n else n + 1

/-- The leader of a slot's group under a join function. -/
def leaderUnder (join : Nat → Bool) (i : Slot) : Slot := Fin.ofNat 8 (leaderIndex join i.val)

/-- The members of the group led by `l` under a join function, in slot order. -/
def membersUnder (join : Nat → Bool) (l : Slot) : List Slot :=
  allSlots.filter fun m => leaderUnder join m == l

/-- The leader of slot `i`'s group. -/
def State.leaderOf (s : State) (i : Slot) : Slot := leaderUnder s.joinFlag i

/-- The members of the group led by `l`. -/
def State.members (s : State) (l : Slot) : List Slot := membersUnder s.joinFlag l

/-- The sequencer record that drives slot `i`: its leader's (R106). -/
def State.seqOf (s : State) (i : Slot) : Sequencer := (s.slot (s.leaderOf i)).seq

/-- The sequencer state that slot `i` shows: its leader's (R106). -/
def State.stateOf (s : State) (i : Slot) : SeqState := (s.seqOf i).state

/-- The keep-power lock of the group led by `l`: set when set for any member (Table 5-2). -/
def State.groupLock (s : State) (l : Slot) : Bool := (s.members l).any fun m => (s.slot m).settings.lock

/-- Whether the rail of the group led by `l` is on; the members' rails are switched together (R113). -/
def State.groupRail (s : State) (l : Slot) : Bool := (s.members l).any fun m => (s.slot m).lines.rail

/-- Whether every member of the group led by `l` is recorded present. -/
def State.groupPresent (s : State) (l : Slot) : Bool :=
  (s.members l).all fun m => (s.slot m).lines.present

/-! ### Gate state (R3, Table 1-2) -/

/-- The four gate states. -/
inductive GateState where
  | opened
  | drain
  | fenced
  | privatePath
deriving DecidableEq, Repr

/-- The gate state of a sequencer state (Table 1-2). -/
def gateStateFor : SeqState → GateState
  | .online => .opened
  | .draining => .drain
  | .probing => .privatePath
  | .restoring => .privatePath
  | .vacant => .fenced
  | .unpowered => .fenced
  | .awaitPower => .fenced
  | .powering => .fenced
  | .resetting => .fenced
  | .training => .fenced
  | .isolated => .fenced
  | .failed => .fenced

/-- The gate state of slot `i` (R3). -/
def State.gateState (s : State) (i : Slot) : GateState := gateStateFor (s.stateOf i)

/-! ### Exchange memory (chapter 9.2) -/

/-- The byte at a key: the entry's byte, or 0 where nothing is listed, which is what exchange memory
holds after a power-on reset (R170). -/
def memGet : List Host.Cell → Nat → Byte
  | [], _ => 0
  | (k, b) :: r, a => if k = a then b else memGet r a

/-- Store a byte at a key, keeping keys rising and listing no zero byte. -/
def memPut : List Host.Cell → Nat → Byte → List Host.Cell
  | [], a, b => if b = 0 then [] else [(a, b)]
  | (k, c) :: r, a, b =>
    if a < k then (if b = 0 then (k, c) :: r else (a, b) :: (k, c) :: r)
    else if a = k then (if b = 0 then r else (a, b) :: r)
    else (k, c) :: memPut r a b

/-- Every key of the list is above `lo`, and keys rise. -/
def risesFrom : Nat → List Host.Cell → Bool
  | _, [] => true
  | lo, (k, _) :: r => decide (lo ≤ k) && risesFrom (k + 1) r

/-- The canonical form: keys strictly rising, below 64 KiB, and no zero byte listed. -/
def Memory.wf (m : List Host.Cell) : Bool :=
  risesFrom 0 m && m.all fun c => decide (c.1 < 65536) && decide (c.2 ≠ 0)

/-- The byte of exchange memory at an address of the 64 KiB window. -/
def State.readByte (s : State) (a : Nat) : Byte := memGet s.mem (a % 65536)

/-- The little-endian word at a byte address. -/
def State.readWord (s : State) (a : Nat) : Word :=
  wordOfBytes (s.readByte a) (s.readByte (a + 1)) (s.readByte (a + 2)) (s.readByte (a + 3))

/-- The little-endian half word at a byte address. -/
def State.readHalf (s : State) (a : Nat) : Half := (s.readWord a).setWidth 16

/-- Store one byte. -/
def State.storeByte (s : State) (a : Nat) (b : Byte) : State :=
  { s with mem := memPut s.mem (a % 65536) b }

/-- Store a word, lowest byte at the lowest address. -/
def State.storeWord (s : State) (a : Nat) (w : Word) : State :=
  (((s.storeByte a (byteOf w 0)).storeByte (a + 1) (byteOf w 1)).storeByte (a + 2) (byteOf w 2)).storeByte
    (a + 3) (byteOf w 3)

/-- Store a half word. -/
def State.storeHalf (s : State) (a : Nat) (h : Half) : State :=
  (s.storeByte a (byteOf (h.setWidth 32) 0)).storeByte (a + 1) (byteOf (h.setWidth 32) 1)

/-- The part writes a word into exchange memory. Every byte is 0 until the event that sets READY
(chapter 9.2), so before READY the part writes nothing; R170 writes the fields at READY. -/
def putWord (a : Nat) (w : Word) (s : State) : State := if s.regs.ready then s.storeWord a w else s

/-- The part writes a half word into exchange memory. -/
def putHalf (a : Nat) (h : Half) (s : State) : State := if s.regs.ready then s.storeHalf a h else s

/-- The part writes consecutive words from an address on. -/
def putWords : Nat → List Word → State → State
  | _, [], s => s
  | a, w :: r, s => putWords (a + 4) r (putWord a w s)

/-! ### Records and the outcome area (Tables 9-3, 9-5) -/

/-- The start of slot `i`'s record. -/
def slotBase (i : Slot) : Nat := 0x100 + 0x200 * i.val

/-- The start of a record: a slot record or the common record. -/
def recordBase (r : RecordNo) : Nat := if r.val < 8 then 0x100 + 0x200 * r.val else 0

/-- The byte offset of the order word in a record (Tables 9-3, 9-7). -/
def orderOffset (r : RecordNo) : Nat := if r.val < 8 then 0x40 else 0x10

/-- The slot record number of a slot. -/
def slotRecord (i : Slot) : RecordNo := ⟨i.val, Nat.lt_succ_of_lt i.isLt⟩

/-- The word of state, level, attempts used and allowance (0x054). -/
def statusWord (q : Sequencer) : Word := packBytes q.state.code q.level q.attempts q.allowance

/-- The upper half of 0x058: link-up in its bit 0, rail kept in its bit 1. -/
def flagsHalf (q : Sequencer) (l : Lines) : Half :=
  BitVec.ofNat 16 ((if l.linkUp then 1 else 0) + (if q.railKept then 2 else 0))

/-- Write slot `i`'s sequencer fields into its outcome area: state, level, attempts used, allowance,
cause, cause stamp, link-up and rail kept (R71, R106). -/
def syncSlot (i : Slot) (s : State) : State :=
  let q := s.seqOf i
  let b := slotBase i
  s |> putWord (b + 0x54) (statusWord q)
    |> putHalf (b + 0x5A) (flagsHalf q (s.slot i).lines)
    |> putWord (b + 0x5C) (packHalves q.cause.code 0)
    |> putWord (b + 0x60) q.causeStamp

/-- Write the sequencer fields into the outcome area of every member of the group led by `l` (R106). -/
def syncGroup (l : Slot) (s : State) : State := eachSlot (s.members l) syncSlot s

/-- Write an order's result and code into the outcome area of slot `i` (0x050, R160). -/
def writeOutcome (i : Slot) (r : Result) (o : Order) (s : State) : State :=
  putWord (slotBase i + 0x50) (packHalves r.code o.code) s

/-! ### The indicator (R137, R138, Table 7-2) -/

/-- The pattern of a sequencer state when the LOCATE flag is clear (Table 7-2). -/
def statePattern : SeqState → Pattern
  | .vacant => .off
  | .unpowered => .off
  | .online => .steadyOn
  | .isolated => .slowBlink
  | .failed => .slowBlink
  | .awaitPower => .fastBlink
  | .powering => .fastBlink
  | .resetting => .fastBlink
  | .training => .fastBlink
  | .probing => .fastBlink
  | .restoring => .fastBlink
  | .draining => .fastBlink

/-- The pattern of a slot: locate blink when its LOCATE flag is set, else its state's (R137). -/
def patternFor (st : SeqState) (locate : Bool) : Pattern := if locate then .locateBlink else statePattern st

/-- The on and off times of a blink pattern in microseconds; none for a steady one (Table 7-2). -/
def Pattern.times : Pattern → Option (Nat × Nat)
  | .off => none
  | .steadyOn => none
  | .fastBlink => some (125000, 125000)
  | .slowBlink => some (500000, 500000)
  | .locateBlink => some (1000000, 250000)

/-- The indicator when a pattern is selected at count `now`: unchanged when the pattern stays, else the
new pattern from its start, a blink with its on time first (R138). -/
def Indicator.select (d : Indicator) (p : Pattern) (now : Word) : Indicator :=
  if d.pattern = p then d else ⟨p, decide (p ≠ .off), now⟩

/-- Form slot `i`'s indicator from its state and LOCATE flag (R137). -/
def refreshIndicator (i : Slot) (s : State) : State :=
  s.modLines i fun l => { l with indicator := l.indicator.select (patternFor (s.stateOf i) l.locate) s.timebase }

/-! ### Timers -/

/-- A timer of the given duration code started now. -/
def State.startTimer (s : State) (d : DurCode) : Timer := ⟨s.timebase, d.micros⟩

/-- Whether an optional timer runs and has ended. -/
def dueNow (t : Option Timer) (now : Word) : Bool :=
  match t with
  | none => false
  | some x => x.due now

/-- A saturating count that stops at `top` (00_scope.md, Saturating counts). -/
def satInc (top n : Nat) : Nat := if n < top then n + 1 else top

/-- Insert into a list ordered by `before`, behind those that stand before it. -/
def insertBy {α : Type} (before : α → α → Bool) (x : α) : List α → List α
  | [] => [x]
  | y :: r => if before x y then x :: y :: r else y :: insertBy before x r

/-- A list sorted by `before`. -/
def sortBy {α : Type} (before : α → α → Bool) : List α → List α
  | [] => []
  | x :: r => insertBy before x (sortBy before r)

end Sys2Proof.Machine
end

