-- ==== Sys2Proof/Machine/Flags.lean ====
section
/-! DEFINITION. The CAUSE flags with the interrupt message (R166), and the notice ring that sets them
(R163 to R165, Table 9-11). -/

namespace Sys2Proof.Machine

/-- CAUSE.NOTICE. -/
def causeNotice : BitVec 2 := 1

/-- CAUSE.NOTICE_OVERFLOW. -/
def causeOverflow : BitVec 2 := 2

/-- Set bits of CAUSE. One interrupt message is sent when CAUSE changes from 0 while INT_ENABLE is 1
(R166). -/
def raiseCause (b : BitVec 2) (s : State) : State :=
  { s with regs := { s.regs with
      cause := s.regs.cause ||| b
      interrupts :=
        if s.regs.cause = 0 && s.regs.cause ||| b ≠ 0 && s.regs.intEnable then s.regs.interrupts + 1
        else s.regs.interrupts } }

/-- The number of notices waiting: produce - consume modulo 65,536 (chapter 9.5). -/
def noticesWaiting (s : State) : Nat := (s.regs.produce - s.regs.consume).toNat

/-- The address of the notice ring position that a produce index names (Table 9-2). -/
def noticeAddress (p : Half) : Nat := 0x1100 + 16 * (p.toNat % 128)

/-- Post a notice: written with room, dropped without (R163). The stamp is the timebase now. -/
def postNotice (k : NoticeKind) (slot code result : Nat) (detail : Word) (s : State) : State :=
  if noticesWaiting s < 128 then
    let t := putWords (noticeAddress s.regs.produce)
      [packBytes k.code slot code (code / 256), BitVec.ofNat 32 result, s.timebase, detail] s
    let u := { t with regs := { t.regs with produce := t.regs.produce + 1 } }
    if s.regs.noticeMask.getLsbD (k.code - 1) then raiseCause causeNotice u else u
  else raiseCause causeOverflow s

/-- ORDER_DONE for a record's order code and result (R160). -/
def postOrderDone (slot code : Nat) (r : Result) (detail : Word) (s : State) : State :=
  postNotice .orderDone slot code r.code detail s

end Sys2Proof.Machine
end

