-- ==== Sys2Proof/Machine/Prt.lean ====
section
/-! DEFINITION. The Pending Request Table (chapter 2): creating and ending entries, quota and pool, the
pool wait list, and the retired tag list. -/

namespace Sys2Proof.Machine

/-- Change the table. -/
def State.modPrt (s : State) (f : PrtState → PrtState) : State := { s with prt := f s.prt }

/-- Send an item out of slot `i`'s slot port, behind those already sent (R2). -/
def sendCard (i : Slot) (x : PortItem) (s : State) : State :=
  s.modSlot i fun r => { r with cardOut := r.cardOut ++ [x] }

/-- Send an item out of slot `i`'s host-side port, behind those already sent (R2). -/
def sendHost (i : Slot) (x : PortItem) (s : State) : State :=
  s.modSlot i fun r => { r with hostOut := r.hostOut ++ [x] }

/-! ### Counts -/

/-- Whether an entry is a FABRIC entry of slot `i`. -/
def Entry.isFabricOf (i : Slot) (e : Entry) : Bool := e.origin == .fabric && e.slot == i

/-- The live FABRIC count of slot `i` (chapter 2.1). -/
def State.liveFabric (s : State) (i : Slot) : Nat := s.prt.entries.countP fun p => p.2.isFabricOf i

/-- The live count of slot `i`: its live entries of every origin (chapter 2.1). -/
def State.liveCount (s : State) (i : Slot) : Nat := s.prt.entries.countP fun p => p.2.slot == i

/-- Whether the table has a free position among its 96. -/
def State.hasFree (s : State) : Bool := decide (s.prt.entries.length < 96)

/-- The entry at a position. -/
def State.entryAt (s : State) (p : Nat) : Option Entry :=
  (s.prt.entries.find? fun x => x.1 == p).map fun x => x.2

/-- Whether a completion's key names an entry: slot, requester and tag all equal (R31). -/
def Entry.hasKey (i : Slot) (requester : Half) (tag : BitVec 10) (e : Entry) : Bool :=
  e.slot == i && e.requester == requester && e.tag == tag

/-- The first live entry, in position order, that satisfies a test. -/
def State.findEntry (s : State) (test : Entry → Bool) : Option (Nat × Entry) :=
  s.prt.entries.find? fun x => test x.2

/-! ### Creation and end (R22, R24) -/

/-- The lowest-numbered position that a table with rising positions leaves free, from `k` on. -/
def lowestFree : Nat → List (Nat × Entry) → Nat
  | k, [] => k
  | k, (p, _) :: r => if p = k then lowestFree (k + 1) r else k

/-- Put an entry into its position, keeping positions rising. -/
def placeEntry (p : Nat) (e : Entry) : List (Nat × Entry) → List (Nat × Entry)
  | [] => [(p, e)]
  | (q, x) :: r => if p < q then (p, e) :: (q, x) :: r else (q, x) :: placeEntry p e r

/-- Create an entry in the lowest-numbered free position. A sweep in progress does not visit it (R42). -/
def createEntry (e : Entry) (s : State) : State :=
  let p := lowestFree 0 s.prt.entries
  s.modPrt fun t => { t with
    entries := placeEntry p e t.entries
    sweep := t.sweep.map fun w => { w with left := w.left.filter (· != p) } }

/-- End the entry at a position: the position becomes free (R24). -/
def endEntry (p : Nat) (s : State) : State :=
  s.modPrt fun t => { t with entries := t.entries.filter fun x => x.1 != p }

/-- Replace the entry at a position by a changed one. -/
def updateEntry (p : Nat) (e : Entry) (s : State) : State :=
  s.modPrt fun t => { t with entries := t.entries.map fun x => if x.1 == p then (p, e) else x }

/-- The FABRIC entry of a host request at its forwarding (Table 2-2). -/
def fabricEntry (i : Slot) (r : HostRequest) (now : Word) : Entry :=
  ⟨i, .fabric, r.kind, r.requester, r.tag, r.length, r.length * 4, now, now, []⟩

/-- The PROBE entry of slot `i` (Table 2-2): CONFIG READ of offset 0 by requester 0xFFFF, tag 1022. -/
def probeEntry (i : Slot) (now : Word) : Entry :=
  ⟨i, .probe, .configRead 0, 0xFFFF, 1022, 1, 4, now, now, []⟩

/-- The RESTORE entry of slot `i` (Table 2-2): CONFIG WRITE at the job's offset, tag 1023. -/
def restoreEntry (i : Slot) (offset : Nat) (now : Word) : Entry :=
  ⟨i, .restore, .configWrite (BitVec.ofNat 12 offset), 0xFFFF, 1023, 1, 4, now, now, []⟩

/-- The identity read that goes to the card (R89). -/
def probeRequest : HostRequest := ⟨.configRead 0, 0xFFFF, 1022, 1, []⟩

/-- The restore write that goes to the card (R149). -/
def restoreRequest (offset : Nat) (dword : Word) : HostRequest :=
  ⟨.configWrite (BitVec.ofNat 12 offset), 0xFFFF, 1023, 1,
    [byteOf dword 0, byteOf dword 1, byteOf dword 2, byteOf dword 3]⟩

/-- Give a host request its FABRIC entry and forward it (R7, R9). -/
def forwardFabric (i : Slot) (r : HostRequest) (s : State) : State :=
  s |> createEntry (fabricEntry i r s.timebase) |> sendCard i (.request r)

/-- Give slot `i`'s identity read its PROBE entry and send it: probe state OUTSTANDING (R89). -/
def sendProbe (i : Slot) (s : State) : State :=
  (s |> createEntry (probeEntry i s.timebase) |> sendCard i (.request probeRequest)).setProbe i
    (some .outstanding)

/-- Give the active job's write its RESTORE entry and send it: phase WRITE_OUT (R149). -/
def sendRestoreWrite (j : Job) (dword : Word) (s : State) : State :=
  let t := s |> createEntry (restoreEntry j.slot j.offset s.timebase)
    |> sendCard j.slot (.request (restoreRequest j.offset dword))
  { t with engine := { t.engine with phase := .writeOut } }

/-! ### The pool wait list (R25 to R30) -/

/-- The condition of Table 2-3 for a claimant to take a free position. -/
def State.canServe (s : State) : Claimant → Bool
  | .gate i => decide (s.liveFabric i < (s.slot i).settings.quota)
  | .probe _ => true
  | .restore => true

/-- Serve a claimant: create the entry for its pending request and send it (R29). -/
def serveClaimant (c : Claimant) (s : State) : State :=
  match c with
  | .gate i =>
    match (s.slot i).gate.held with
    | some h => forwardFabric i h.req (s.modGate i fun g => { g with held := none })
    | none => s
  | .probe i => sendProbe i s
  | .restore =>
    match s.engine.queue, s.engine.phase with
    | j :: _, .claimWait d => sendRestoreWrite j d s
    | _, _ => s

/-- Whether the head of the pool wait list can be served now. -/
def State.poolReady (s : State) : Bool :=
  match s.prt.pool with
  | [] => false
  | c :: _ => s.hasFree && s.canServe c

/-- Serve heads in list order while a position is free and the head's condition holds (R29). -/
def servePool : Nat → State → State
  | 0, s => s
  | n + 1, s =>
    match s.prt.pool with
    | [] => s
    | c :: rest =>
      if s.hasFree && s.canServe c then
        servePool n (serveClaimant c (s.modPrt fun t => { t with pool := rest }))
      else s

/-- Examine the head of the pool wait list (R29). -/
def examinePool (s : State) : State := servePool s.prt.pool.length s

/-- Join the pool wait list at the tail (R28). Joining an empty list is an examination (R29). -/
def joinPool (c : Claimant) (s : State) : State :=
  let t := s.modPrt fun t => { t with pool := t.pool ++ [c] }
  if s.prt.pool.isEmpty then examinePool t else t

/-- Withdraw from the pool wait list; the withdrawal of the head is an examination (R30). -/
def withdrawPool (c : Claimant) (s : State) : State :=
  let t := s.modPrt fun t => { t with pool := t.pool.filter (· != c) }
  if s.prt.pool.head? == some c then examinePool t else t

/-- Whether a claim that is not a gate's is granted at once: a free position and an empty list (R26). -/
def State.grantsClaim (s : State) : Bool := s.hasFree && s.prt.pool.isEmpty

/-- Slot `i`'s sequencer claims a PROBE entry for its identity read (R23, R26, R89). -/
def claimProbe (i : Slot) (s : State) : State :=
  if s.grantsClaim then sendProbe i s else joinPool (.probe i) (s.setProbe i (some .waitingEntry))

/-! ### The retired tag list (R39 to R41) -/

/-- Append a key, dropping the oldest of a full list of 32 (R39). -/
def retireKey (k : RetiredTag) (s : State) : State :=
  s.modPrt fun t => { t with
    retired := (if t.retired.length < 32 then t.retired else t.retired.drop 1) ++ [k] }

/-- Remove a key from the list (R35, R40). -/
def unretireKey (k : RetiredTag) (s : State) : State :=
  s.modPrt fun t => { t with retired := t.retired.filter (· != k) }

/-- Remove all of slot `i`'s retired tags (R41). -/
def purgeRetired (i : Slot) (s : State) : State :=
  s.modPrt fun t => { t with retired := t.retired.filter fun k => k.slot != i }

/-- The key of an entry. -/
def Entry.key (e : Entry) : RetiredTag := ⟨e.slot, e.requester, e.tag⟩

/-- Free slot `i`'s live entry of an origin without a report (R47), and offer its position. -/
def freeEntryOf (o : Origin) (i : Slot) (s : State) : State :=
  match s.findEntry fun e => e.origin == o && e.slot == i with
  | some (p, _) => examinePool (endEntry p s)
  | none => s

end Sys2Proof.Machine
end

