-- ==== Sys2Proof/Machine/Gates.lean ====
section
/-! DEFINITION. The Slot Gates (chapter 1): stand-in answers, abort records, discard counts, the held
request, the fence, and the commands that bring traffic to a gate, apart from card completions. -/

namespace Sys2Proof.Machine

/-! ### Abort rings (R19, R167, R168) -/

/-- The abort record of a request answered by stand-in: Table 1-7 in the layout of Table 9-6. -/
def abortRecord (i : Slot) (e : Entry) (why : Reason) (now : Word) (produce : Half) : List Word :=
  [packBytes Origin.fabric.code (requestKindCode e.kind) why.code i.val,
    packHalves e.requester.toNat e.tag.toNat,
    (requestTarget e.kind).setWidth 32,
    (requestTarget e.kind >>> 32).setWidth 32,
    packHalves e.length e.owed,
    e.issue,
    now,
    packHalves produce.toNat 0]

/-- Slot `i`'s abort consume index, read live from its settings area (Table 9-4). -/
def State.abortConsume (s : State) (i : Slot) : Half := s.readHalf (slotBase i + 0x3C)

/-- Change slot `i`'s abort ring. -/
def State.modRing (s : State) (i : Slot) (f : AbortRing → AbortRing) : State :=
  s.modSlot i fun r => { r with ring := f r.ring }

/-- Whether slot `i`'s ring has room for a record (R167). -/
def State.abortRoom (s : State) (i : Slot) : Bool :=
  decide (((s.slot i).ring.produce - s.abortConsume i).toNat < (s.slot i).settings.ringCount)

/-- Write an abort record with room: the record, then the produce index; the mark is cleared (R167). -/
def writeAbort (i : Slot) (e : Entry) (why : Reason) (s : State) : State :=
  let p := (s.slot i).ring.produce
  let t := s |> putWords
    ((s.slot i).settings.ringBase + 32 * (p.toNat % (s.slot i).settings.ringCount))
    (abortRecord i e why s.timebase p)
  (t.modRing i fun r => { r with produce := p + 1, full := false }) |> putHalf (slotBase i + 0x70) (p + 1)

/-- A record that finds no room: the count rises, and the first loss of a run posts ABORT_RING_FULL
(R168). -/
def loseAbort (i : Slot) (why : Reason) (s : State) : State :=
  let n := satInc 65535 (s.slot i).ring.notWritten
  let t := (s.modRing i fun r => { r with notWritten := n, full := true })
    |> putHalf (slotBase i + 0x72) (BitVec.ofNat 16 n)
  if (s.slot i).ring.full then t
  else postNotice .abortRingFull i.val why.code 0 (BitVec.ofNat 32 n) t

/-- Hand an abort record to slot `i`'s ring (R167): no record for a ring of count 0. -/
def handAbort (i : Slot) (e : Entry) (why : Reason) (s : State) : State :=
  if (s.slot i).settings.ringCount = 0 then s
  else if s.abortRoom i then writeAbort i e why s
  else loseAbort i why s

/-! ### Stand-in answers (R17, R18) -/

/-- The stand-in answer for a request with `owed` bytes owed, in an answer style (Table 1-5). -/
def standInFor (ones : Bool) (e : Entry) : Completion :=
  if ones then ⟨e.requester, e.tag, .success, e.owed, if requestReads e.kind then List.replicate e.owed 0xFF else []⟩
  else ⟨e.requester, e.tag, .abort, e.owed, []⟩

/-- Answer a request by stand-in and write its abort record (R17, R19). A request without an entry is
given as the entry it would have: its owed bytes are its length times 4, its issue stamp its arrival. -/
def standIn (i : Slot) (e : Entry) (why : Reason) (s : State) : State :=
  s |> sendHost i (.completion (standInFor (s.slot i).settings.ones e)) |> handAbort i e why

/-! ### Discard counts (R21) -/

/-- Count a discarded posted write, and write the count where it changed: one that has stopped leaves the
field as it stands. -/
def countPosted (i : Slot) (s : State) : State :=
  let n := satInc 4294967295 (s.slot i).gate.postedDiscarded
  if n = (s.slot i).gate.postedDiscarded then s
  else (s.modGate i fun g => { g with postedDiscarded := n }) |> putWord (slotBase i + 0x74) (BitVec.ofNat 32 n)

/-- Count discarded card traffic, and write the count where it changed. -/
def countCard (i : Slot) (s : State) : State :=
  let n := satInc 4294967295 (s.slot i).gate.cardDiscarded
  if n = (s.slot i).gate.cardDiscarded then s
  else (s.modGate i fun g => { g with cardDiscarded := n }) |> putWord (slotBase i + 0x78) (BitVec.ofNat 32 n)

/-! ### The held request, the drain and the fence (R4, R5, R8, R45) -/

/-- Answer the gate's held request, if there is one, by stand-in with reason FENCED (R4, R5). -/
def answerHeld (i : Slot) (s : State) : State :=
  match (s.slot i).gate.held with
  | some h =>
    standIn i (fabricEntry i h.req h.arrival) .fenced (s.modGate i fun g => { g with held := none })
  | none => s

/-- Whether a claimant is the gate of a member of the group led by `l`. -/
def State.memberGate (s : State) (l : Slot) : Claimant → Bool
  | .gate i => s.leaderOf i == l
  | .probe _ => false
  | .restore => false

/-- The members' gates leave the pool wait list together, before any position that the same event frees is
offered (R30, R107). -/
def leavePool (l : Slot) (s : State) : State :=
  s.modPrt fun t => { t with pool := t.pool.filter fun c => !s.memberGate l c }

/-- The gates' part of a change from OPEN to DRAIN (R5): they leave the pool wait list, every held request is
answered, and a new head is examined. -/
def drainGroup (l : Slot) (s : State) : State :=
  let t := leavePool l s |> eachSlot (s.members l) answerHeld
  match s.prt.pool with
  | c :: _ => if s.memberGate l c then examinePool t else t
  | [] => t

/-- The order of a fence: oldest issue stamp first; entries of equal age stand in an order that the
spec leaves open (`Config.fenceRank`). -/
def fenceBefore (now : Word) (draw : Nat) (x y : Nat × Entry) : Bool :=
  let a := age now x.2.issue
  let b := age now y.2.issue
  if a = b then decide (Config.fenceRank draw x.1 ≤ Config.fenceRank draw y.1) else decide (b < a)

/-- Slot `i`'s live FABRIC entries in the order in which a fence ends them (R45). -/
def State.fenceOrder (s : State) (i : Slot) : List (Nat × Entry) :=
  sortBy (fenceBefore s.timebase s.draws) (s.prt.entries.filter fun x => x.2.isFabricOf i)

/-- End one entry by stand-in: it ends, its key is retired, the stand-in and the record follow. -/
def strandEntry (i : Slot) (why : Reason) (s : State) (x : Nat × Entry) : State :=
  s |> endEntry x.1 |> retireKey x.2.key |> standIn i x.2 why

/-- Fence slot `i` with a reason (R4, R45): the gate leaves the pool wait list, its live FABRIC entries
end oldest first, the held request is answered FENCED, and the freed positions are offered. -/
def fenceSlot (why : Reason) (i : Slot) (s : State) : State :=
  let w := withdrawPool (.gate i) s
  let t := (w.fenceOrder i).foldl (strandEntry i why) { w with draws := w.draws + 1 }
  t |> answerHeld i |> examinePool

/-- Fence every member of the group led by `l` with a reason, in slot order (R107): the members' gates leave
the pool wait list first. -/
def fenceGroup (l : Slot) (why : Reason) (s : State) : State :=
  leavePool l s |> eachSlot (s.members l) (fenceSlot why)

/-! ### Host non-posted requests (R7 to R10, R25, R37, R40) -/

/-- Whether the table gives slot `i` a FABRIC entry at once (R25). -/
def State.grantsFabric (s : State) (i : Slot) : Bool :=
  decide (s.liveFabric i < (s.slot i).settings.quota) && s.grantsClaim

/-- A request that arrives in OPEN: duplicate check, reuse check, then the claim (R7, R37, R40). -/
def arriveOpen (i : Slot) (r : HostRequest) (s : State) : State :=
  if (s.findEntry fun e => e.isFabricOf i && e.hasKey i r.requester r.tag).isSome then
    standIn i (fabricEntry i r s.timebase) .duplicateTag s
  else
    let t := unretireKey ⟨i, r.requester, r.tag⟩ s
    if t.grantsFabric i then forwardFabric i r t
    else joinPool (.gate i) (t.modGate i fun g => { g with held := some ⟨r, s.timebase⟩ })

/-- A host non-posted request arrives at gate `i` (R7, R10). -/
def hostArrives (i : Slot) (r : HostRequest) (s : State) : State :=
  match s.gateState i with
  | .opened => arriveOpen i r s
  | .drain => standIn i (fabricEntry i r s.timebase) .fenced s
  | .fenced => standIn i (fabricEntry i r s.timebase) .fenced s
  | .privatePath => standIn i (fabricEntry i r s.timebase) .fenced s

/-- Whether the host-side port keeps non-posted requests back: the gate holds one, or others that were
kept back stand before this one (R8). -/
def State.backPressure (s : State) (i : Slot) : Bool :=
  (s.slot i).gate.held.isSome || !(s.slot i).gate.kept.isEmpty

/-- HOST_NON_POSTED_REQUEST (R7 to R10): kept back in the host-side port while the gate holds a
request, else it arrives at the gate. -/
def execHostNonPostedRequest (i : Slot) (r : HostRequest) (s : State) : Host.Outcome State Fault Refusal :=
  .next (if s.backPressure i then s.modGate i fun g => { g with kept := g.kept ++ [r] } else hostArrives i r s)

/-- The first request kept back at gate `i` arrives, once the gate holds none (R8, R9). -/
def acceptKept (i : Slot) (s : State) : State :=
  match (s.slot i).gate.kept with
  | [] => s
  | r :: rest => hostArrives i r (s.modGate i fun g => { g with kept := rest })

/-- HOST_POSTED_WRITE (R11): forwarded in OPEN, else discarded and counted. Messages are handled as
MEMORY WRITE. -/
def execHostPostedWrite (i : Slot) (w : PostedWrite) (s : State) : Host.Outcome State Fault Refusal :=
  .next (match s.gateState i with
    | .opened => sendCard i (.posted w) s
    | .drain => countPosted i s
    | .fenced => countPosted i s
    | .privatePath => countPosted i s)

/-- The answer toward the card for a read that reaches a draining gate (R15). -/
def unsupportedAnswer (r : CardRequest) : Completion := ⟨r.requester, r.tag, .unsupported, r.length * 4, []⟩

/-- A card-originated request at a gate in DRAIN (R15): a read is answered UNSUPPORTED toward the
card. -/
def drainCardRequest (i : Slot) (r : CardRequest) (s : State) : State :=
  match r.form with
  | .memoryWrite => countCard i s
  | .memoryRead => s |> sendCard i (.completion (unsupportedAnswer r)) |> countCard i

/-- CARD_ORIGINATED_REQUEST (R15). -/
def execCardOriginatedRequest (i : Slot) (r : CardRequest) (s : State) : Host.Outcome State Fault Refusal :=
  .next (match s.gateState i with
    | .opened => sendHost i (.cardRequest r) s
    | .drain => drainCardRequest i r s
    | .fenced => countCard i s
    | .privatePath => countCard i s)

/-- HOST_COMPLETION_TOWARD_CARD (R16): forwarded in OPEN, else discarded and counted. -/
def execHostCompletionTowardCard (i : Slot) (c : Completion) (s : State) : Host.Outcome State Fault Refusal :=
  .next (match s.gateState i with
    | .opened => sendCard i (.completion c) s
    | .drain => countCard i s
    | .fenced => countCard i s
    | .privatePath => countCard i s)

/-- POOL_HEAD_SERVED (R29): the head of the pool wait list is given a free position, and serving goes on
in list order. -/
def execPoolHeadServed (s : State) : Host.Outcome State Fault Refusal := .next (examinePool s)

end Sys2Proof.Machine
end

