-- ==== Sys2Proof/Machine/Sequencer.lean ====
section
/-! DEFINITION. The shared steps of the Recovery Sequencer (chapter 4): a change of state (R72), the end
of a sequence in flight (R79) with a waiting CANCEL (R100, R101), and the drives of the members' lines
(R113, R119, R128, R130, R135). -/

namespace Sys2Proof.Machine

/-- What a change of state does at one member: probe state, risen mark and dwell of the state before are
dropped, a decay phase ends outside ONLINE and DRAINING (R59), and the indicator follows (R137). -/
def enterMember (st : SeqState) (i : Slot) (s : State) : State :=
  (s.modSlot i fun r => { r with
    probe := none
    meter := { r.meter with decay := if st = .online ∨ st = .draining then r.meter.decay else none }
    lines := { r.lines with risen := false, dwell := none, dwellEnded := false } })
  |> refreshIndicator i

/-- A change of state of the group led by `l` (R72): state, cause and stamp are recorded, the limit of
the state before stops, rail kept becomes no outside FAILED (R94), and every member's outcome area is
written (R106). A change from a state to itself is a change. -/
def enterState (l : Slot) (st : SeqState) (why : Cause) (s : State) : State :=
  let t := s.modSeq l fun q => { q with
    state := st
    cause := why
    causeStamp := s.timebase
    destination := none
    limit := none
    probeLimitPassed := false
    fixedOutcome := none
    railKept := q.railKept && st == .failed }
  t |> eachSlot (t.members l) (enterMember st) |> syncGroup l

/-- Start the group's limit of the present state with a duration of the leader's settings. -/
def startLimit (l : Slot) (d : Settings → DurCode) (s : State) : State :=
  s.modSeq l fun q => { q with limit := some (s.startTimer (d (s.slot l).settings)) }

/-! ### The end of a sequence (R79, Table 4-4) -/

/-- Level in the upper half, attempts used in the lower half (R79, R160). -/
def levelDetail (q : Sequencer) : Word := packHalves q.attempts q.level

/-- An order in flight ends: its result is written and ORDER_DONE posted (R79, R160). -/
def finishOrder (l : Slot) (o : Order) (r : Result) (s : State) : State :=
  s |> writeOutcome l r o |> postOrderDone l.val o.code r (levelDetail (s.slot l).seq)

/-- A waiting CANCEL ends OK (R100 steps 2 and 3). `wrote` says that it wrote PENDING at its taking, as a
CANCEL of an automatic sequence does (R160). -/
def closeCancel (l : Slot) (wrote : Bool) (s : State) : State :=
  ((if wrote then writeOutcome l .ok .cancel s else s)
    |> postOrderDone l.val Order.cancel.code .ok 0).modSeq l fun q => { q with cancelPending := false }

/-- The report of a sequence's end (Table 4-4): an order's result, AUTO_RECOVERY_ENDED for an automatic
recovery unless another notice reports its end, nothing for an automatic isolation. -/
def reportEnd (l : Slot) (r : Result) (s : State) : State :=
  match (s.slot l).seq.flight with
  | .none => s
  | .bringUp => finishOrder l .bringUp r s
  | .recover => finishOrder l .recover r s
  | .isolate => finishOrder l .isolate r s
  | .powerDown => finishOrder l .powerDown r s
  | .autoIsolate => s
  | .autoRecover =>
    if r = .railFault ∨ r = .noCard then s
    else postNotice .autoRecoveryEnded l.val (s.slot l).seq.cause.code r.code (levelDetail (s.slot l).seq) s

/-- The sequence in flight of the group led by `l` ends with a result (R79); a CANCEL that waits ends OK
after it (R100, R101). -/
def endSequence (l : Slot) (r : Result) (s : State) : State :=
  let t := (reportEnd l r s).modSeq l fun q => { q with flight := .none }
  if (s.slot l).seq.cancelPending then closeCancel l (!(s.slot l).seq.flight.isOrder) t else t

/-! ### Lines of the members -/

/-- Drive every member's reset line. -/
def driveReset (l : Slot) (asserted : Bool) (s : State) : State :=
  eachSlot (s.members l) (fun i t => t.modLines i fun x => { x with resetAsserted := asserted }) s

/-- Disable or enable every member's link. -/
def driveLink (l : Slot) (disabled : Bool) (s : State) : State :=
  eachSlot (s.members l) (fun i t => t.modLines i fun x => { x with linkDisabled := disabled }) s

/-- Switch one member's rail off, which gates its reference clock (R119). -/
def railOff (i : Slot) (s : State) : State :=
  s.modLines i fun x => { x with rail := false, clock := if x.rail then false else x.clock }

/-- Switch the group's rails off and start the discharge timer with the leader's dwell; with the rail
already off nothing is switched and the timer stands (R73). -/
def switchOff (l : Slot) (s : State) : State :=
  if s.groupRail l then
    (eachSlot (s.members l) railOff s).modSeq l fun q =>
      { q with discharge := some (s.startTimer (s.slot l).settings.dischargeDwell) }
  else s

/-- Whether a test holds of every member's lines. -/
def State.allLines (s : State) (l : Slot) (p : Lines → Bool) : Bool :=
  (s.members l).all fun i => p (s.slot i).lines

/-! ### Entries into ONLINE and ISOLATED -/

/-- Set slot `i`'s score, and write it into the outcome area when it changed (R51). -/
def setScore (i : Slot) (v : Nat) (s : State) : State :=
  if (s.slot i).meter.score = v then s
  else (s.modMeter i fun m => { m with score := v }) |> putHalf (slotBase i + 0x58) (BitVec.ofNat 16 v)

/-- The meter at an entry into ONLINE (R61): score 0 and both thresholds armed, unless the entry is by
RESUME; a new decay phase in every case. -/
def meterOnline (resume : Bool) (i : Slot) (s : State) : State :=
  let t := if resume then s
    else setScore i 0 (s.modMeter i fun m => { m with warnArmed := true, isolateArmed := true })
  t.modMeter i fun m => { m with decay := some ⟨s.timebase, (s.slot i).settings.decayPeriod.micros, 0⟩ }

/-- Entry into ONLINE (R93): attempts used 0, the gate opens, the meters start afresh, and the sequence in
flight ends OK. -/
def enterOnline (l : Slot) (why : Cause) (resume : Bool) (s : State) : State :=
  (s.modSeq l fun q => { q with attempts := 0 })
  |> enterState l .online why
  |> eachSlot (s.members l) (meterOnline resume)
  |> endSequence l .ok

/-- The safe point of a CANCEL that leaves the group in a state (R100): the state is entered with cause
CANCELLED, the sequence ends CANCELLED, and CANCEL ends OK. -/
def safePoint (l : Slot) (st : SeqState) (s : State) : State :=
  s |> enterState l st .cancelled |> endSequence l .cancelled

end Sys2Proof.Machine
end

