-- ==== Sys2Proof/Machine/Power.lean ====
section
/-! DEFINITION. The Power Budget Arbiter and POWERING (chapter 6): requests, examinations, grants and
their return, the risen marks and the stability dwells. -/

namespace Sys2Proof.Machine

/-- The sum of the members' working allotments (Table 5-2, R122). -/
def State.groupAllotment (s : State) (l : Slot) : Nat :=
  ((s.members l).map fun m => (s.slot m).settings.allotment).sum

/-- Give the Arbiter a granted sum and a wait list, and write the sum and the number of waiters into the
common record where either has changed (R121, Table 9-7). -/
def setGrants (granted : Nat) (waiters : List Waiter) (s : State) : State :=
  let t := { s with arb := { s.arb with granted := granted, waiters := waiters } }
  if granted = s.arb.granted ∧ waiters.length = s.arb.waiters.length then t
  else putWord 0x28 (packBytes granted waiters.length 0 0) t

/-- The lower-numbered leader of two entries, the first one on equality. -/
def lowerWaiter (x y : Waiter) : Waiter := if y.leader < x.leader then y else x

/-- The head of the grant wait list, chosen by the mode (R122). -/
def Arbiter.head (a : Arbiter) : Option Waiter :=
  match a.waiters with
  | [] => none
  | w :: r =>
    match a.mode with
    | .arrival => some w
    | .slotOrder => some (r.foldl lowerWaiter w)

/-- Whether an amount fits the units available: the total less the granted sum (R123). -/
def Arbiter.fits (a : Arbiter) (w : Waiter) : Bool := decide (a.granted + w.amount ≤ a.total)

/-- A member's rise within the limit (R116): risen mark set, clock enabled, and its stability dwell
started with the leader's dwell. -/
def markRisen (l i : Slot) (s : State) : State :=
  s.modLines i fun x => { x with
    risen := true
    clock := true
    dwell := some (s.startTimer (s.slot l).settings.stabilityDwell)
    dwellEnded := false }

/-- The power-good limit stops when every member has risen (R116). -/
def stopLimitWhenRisen (l : Slot) (s : State) : State :=
  if s.allLines l fun x => x.risen then s.modSeq l fun q => { q with limit := none } else s

/-- A member's rail is switched on at the entry into POWERING; a member whose power-good stands present is
taken as risen at that moment (R115, R116). -/
def railOn (l i : Slot) (s : State) : State :=
  let t := s.modLines i fun x => { x with rail := true }
  if (s.slot i).lines.powerGood then markRisen l i t else t

/-- Entry into POWERING on a grant of an amount (R115). -/
def enterPowering (l : Slot) (amount : Nat) (s : State) : State :=
  (s |> enterState l .powering .sequence).modSeq l (fun q => { q with grant := some amount })
  |> startLimit l (fun c => c.powerGoodLimit)
  |> eachSlot (s.members l) (railOn l)
  |> stopLimitWhenRisen l

/-- Grant a waiter's request: the granted sum rises, the entry leaves the list, and the group enters
POWERING (R123). -/
def giveGrant (w : Waiter) (s : State) : State :=
  s |> setGrants (s.arb.granted + w.amount) (s.arb.waiters.filter fun x => x.leader != w.leader)
    |> enterPowering w.leader w.amount

/-- Grant heads while each new head fits (R123). -/
def serveGrants : Nat → State → State
  | 0, s => s
  | n + 1, s =>
    match s.arb.head with
    | none => s
    | some w => if s.arb.fits w then serveGrants n (giveGrant w s) else s

/-- Examine the head of the grant wait list (R123). -/
def examineGrants (s : State) : State := serveGrants s.arb.waiters.length s

/-- Whether the head of the grant wait list fits now. -/
def State.grantReady (s : State) : Bool :=
  match s.arb.head with
  | none => false
  | some w => s.arb.fits w

/-- A group asks for a grant (R122): it joins the list, and is examined when it is the new head. -/
def requestGrant (l : Slot) (s : State) : State :=
  let w : Waiter := ⟨l, s.groupAllotment l⟩
  let t := setGrants s.arb.granted (s.arb.waiters ++ [w]) s
  if t.arb.head = some w then examineGrants t else t

/-- A group leaves the grant wait list (R125); the withdrawal of the head is an examination. -/
def withdrawGrant (l : Slot) (s : State) : State :=
  let t := setGrants s.arb.granted (s.arb.waiters.filter fun x => x.leader != l) s
  if s.arb.head.map (fun w => w.leader) = some l then examineGrants t else t

/-- A group returns its grant, if it holds one, and the head is examined (R124). -/
def returnGrant (l : Slot) (s : State) : State :=
  match (s.slot l).seq.grant with
  | none => s
  | some a =>
    let t := s.modSeq l fun q => { q with grant := none }
    t |> setGrants (t.arb.granted - a) t.arb.waiters |> examineGrants

/-- Entry into AWAIT_POWER, with the request for a grant (R87 step 2, R122). -/
def enterAwaitPower (l : Slot) (s : State) : State :=
  s |> enterState l .awaitPower .sequence |> requestGrant l

/-- A member's risen mark, dwell and dwell end are cleared. -/
def clearRisen (i : Slot) (s : State) : State :=
  s.modLines i fun x => { x with risen := false, dwell := none, dwellEnded := false }

/-- The four steps of a failure or a CANCEL in POWERING (R116): rails off and discharge timer started,
clocks gated, dwells stopped, grant returned. -/
def leavePowering (l : Slot) (s : State) : State :=
  s |> switchOff l |> eachSlot (s.members l) clearRisen |> returnGrant l

/-- GRANT (R123): the head of the grant wait list is granted while its amount fits. -/
def execGrant (s : State) : Host.Outcome State Fault Refusal := .next (examineGrants s)

end Sys2Proof.Machine
end

