-- ==== Sys2Proof/Machine/Ladder.lean ====
section
/-! DEFINITION. The escalation ladder (R83 to R87, R94, R95), the power-off steps (R78) and the discharge
timer's stop (R73, R120). -/

namespace Sys2Proof.Machine

/-- Remove the retired tags of every member (R41, R108). -/
def purgeGroup (l : Slot) (s : State) : State := eachSlot (s.members l) purgeRetired s

/-- Record the level of the attempt that begins. -/
def setLevel (l : Slot) (level : Nat) (s : State) : State := s.modSeq l fun q => { q with level := level }

/-- A level-1 attempt: RESETTING, tags purged, reset line released, link disabled, reset hold started
(R85). -/
def beginLink (l : Slot) (why : Cause) (s : State) : State :=
  s |> enterState l .resetting why |> purgeGroup l |> driveReset l false |> driveLink l true
    |> startLimit l (fun c => c.resetHold)

/-- A level-2 attempt: RESETTING, tags purged, reset line asserted, link enabled, reset hold started
(R86). -/
def beginLine (l : Slot) (why : Cause) (s : State) : State :=
  s |> enterState l .resetting why |> purgeGroup l |> driveReset l true |> driveLink l false
    |> startLimit l (fun c => c.resetHold)

/-- The group goes on to AWAIT_POWER where its discharge timer is stopped (R73, R120). -/
def awaitWhenDischarged (l : Slot) (s : State) : State :=
  if (s.slot l).seq.discharge = none then enterAwaitPower l s else s

/-- A level-3 attempt: reset line asserted, rail off, UNPOWERED within the sequence, tags purged, and on to
AWAIT_POWER when the discharge timer is stopped (R87 steps 1 and 2). -/
def beginPower (l : Slot) (why : Cause) (s : State) : State :=
  s |> driveReset l true |> switchOff l |> enterState l .unpowered why |> purgeGroup l |> awaitWhenDischarged l

/-- Begin an attempt at a level (R83, R84). -/
def beginAttempt (l : Slot) (level : Nat) (why : Cause) (s : State) : State :=
  let t := setLevel l level s
  if level ≤ 1 then beginLink l why t else if level = 2 then beginLine l why t else beginPower l why t

/-- A level of 3 lowered to 2 under the keep-power lock (R83, R95). -/
def clampLevel (lock : Bool) (n : Nat) : Nat := if lock then min n 2 else n

/-- A ladder begins (R83): the levels are recorded, lowered under the lock unless the ladder is a BRING_UP
that begins with the rail off (`exempt`); attempts used 0; the first attempt at the start level. -/
def beginLadder (l : Slot) (start max : Nat) (why : Cause) (exempt : Bool) (s : State) : State :=
  let lock := s.groupLock l && !exempt
  (s.modSeq l fun q => { q with
    startLevel := clampLevel lock start
    maxLevel := clampLevel lock max
    attempts := 0 })
  |> beginAttempt l (clampLevel lock start) why

/-- Entry into FAILED (R94): reset line asserted; the rail kept under the lock, else switched off; the
sequence ends with the given result. -/
def enterFailed (l : Slot) (why : Cause) (r : Result) (s : State) : State :=
  let t := driveReset l true s
  let u := if s.groupLock l && s.groupRail l then t.modSeq l fun q => { q with railKept := true }
    else (switchOff l t).modSeq l fun q => { q with railKept := false }
  u |> enterState l .failed why |> endSequence l r

/-- The ladder is exhausted (R84). The level stays the last attempt's: DEDUCED, unsafe
(notes/assumptions/13.md). -/
def exhaustLadder (l : Slot) (s : State) : State := enterFailed l .ladderExhausted .ladderExhausted s

/-- Begin the attempt of a level choice: under the lock a level of 3 becomes 2, and a level of 1 or 2 with
the rail off ends in FAILED (R84, R95). -/
def takeLevel (l : Slot) (level attempts : Nat) (kind : Cause) (s : State) : State :=
  let chosen := clampLevel (s.groupLock l) level
  if chosen ≤ 2 ∧ !(s.groupRail l) then exhaustLadder l s
  else (s.modSeq l fun q => { q with attempts := attempts }) |> beginAttempt l chosen kind

/-- An attempt failure with its level choice (R84): attempts used rises by 1; the level is repeated below
the attempts per level, else rises below the max level, else the ladder is exhausted. -/
def attemptFailure (l : Slot) (kind : Cause) (s : State) : State :=
  let q := (s.slot l).seq
  let n := q.attempts + 1
  let t := s.modSeq l fun x => { x with attempts := n }
  if n < (s.slot l).settings.attemptsPerLevel then takeLevel l q.level n kind t
  else if q.level < clampLevel (s.groupLock l) q.maxLevel then takeLevel l (q.level + 1) 0 kind t
  else exhaustLadder l t

/-- The power-off steps of POWER_DOWN (R78): reset line asserted, rail off, rail kept no, UNPOWERED. -/
def powerOff (l : Slot) (why : Cause) (s : State) : State :=
  s |> driveReset l true |> switchOff l |> enterState l .unpowered why

/-- DISCHARGE_TIMER_STOP (R73, R120): the dwell has passed; a group that waits in UNPOWERED within its
sequence enters AWAIT_POWER. -/
def execDischargeTimerStop (i : Slot) (s : State) : Host.Outcome State Fault Refusal :=
  let l := s.leaderOf i
  let q := (s.slot l).seq
  .next (if dueNow q.discharge s.timebase then
      let t := s.modSeq l fun x => { x with discharge := none }
      if q.state = .unpowered ∧ q.flight ≠ .none then enterAwaitPower l t else t
    else s)

end Sys2Proof.Machine
end

