-- ==== Sys2Proof/Machine/Restore.lean ====
section
/-! DEFINITION. The Configuration Restore Engine (chapter 8): job creation, activation, items, writes, the
ends of jobs and their removal. -/

namespace Sys2Proof.Machine

/-- Change the engine. -/
def State.modEngine (s : State) (f : Engine → Engine) : State := { s with engine := f s.engine }

/-- Whether a job belongs to the group led by `l`. -/
def State.ownsJob (s : State) (l : Slot) (j : Job) : Bool := s.leaderOf j.slot == l

/-- Whether the group led by `l` still has a job, queued, active or paused (R151). -/
def State.hasJob (s : State) (l : Slot) : Bool :=
  (s.engine.queue.any fun j => s.ownsJob l j) || (s.engine.paused.any fun p => s.ownsJob l p.job)

/-- Write the job's writes done into the outcome area (R153). -/
def syncWritesDone (j : Job) (s : State) : State :=
  putWord (slotBase j.slot + 0x7C) (BitVec.ofNat 32 j.writesDone) s

/-- Write the job's item position as the stop position (R153). -/
def syncStop (j : Job) (s : State) : State :=
  putWord (slotBase j.slot + 0x80) (BitVec.ofNat 32 j.position) s

/-- Replace the active job's record. -/
def setActive (j : Job) (s : State) : State := s.modEngine fun e => { e with queue := j :: e.queue.drop 1 }

/-- The active job leaves the head of the queue, and the burst count is 0 for the job that becomes active (R142). That
it is 0 too while no job is active: DESIGN CHOICE, unsafe (notes/assumptions/39.md). -/
def dropActive (s : State) : State :=
  s.modEngine fun e => { e with queue := e.queue.drop 1, phase := .idle, burst := 0 }

/-! ### Writes (R145, R146, R149) -/

/-- The dword of the write that begins, for the item in progress (R149). -/
def State.nextDword (s : State) (j : Job) : ItemInProgress → Word
  | .dataItem _ next => s.readWord (j.base + next)
  | .repeatItem _ d => d

/-- A write of the active job begins: the engine claims a RESTORE entry (R149). -/
def beginWrite (j : Job) (dword : Word) (s : State) : State :=
  if s.grantsClaim then sendRestoreWrite j dword s
  else joinPool .restore (s.modEngine fun e => { e with phase := .claimWait dword })

/-- The job with its item advanced past one write that ended SUCCESS (R145, R146). -/
def Job.advance (j : Job) : Job :=
  match j.item with
  | none => { j with writesDone := j.writesDone + 1 }
  | some (.dataItem rem next) =>
    if rem ≤ 1 then
      { j with writesDone := j.writesDone + 1, offset := j.offset + 4, position := next + 4, item := none }
    else
      { j with writesDone := j.writesDone + 1, offset := j.offset + 4, item := some (.dataItem (rem - 1) (next + 4)) }
  | some (.repeatItem rem d) =>
    if rem ≤ 1 then
      { j with writesDone := j.writesDone + 1, offset := j.offset + 4, position := j.position + 8, item := none }
    else
      { j with writesDone := j.writesDone + 1, offset := j.offset + 4, item := some (.repeatItem (rem - 1) d) }

/-! ### Removal (R152) -/

/-- Remove the jobs of the group led by `l` from the queue and from the paused jobs, keeping those that
`keep` names, and write the stop position of each removed job (R152, R153). -/
def removeJobs (l : Slot) (keep : Job → Bool) (s : State) : State :=
  let gone (j : Job) : Bool := s.ownsJob l j && !keep j
  let t := (s.engine.queue.filter gone).foldl (fun u j => syncStop j u) s
  let u := ((s.engine.paused.map fun p => p.job).filter gone).foldl (fun v j => syncStop j v) t
  u.modEngine fun e => { e with
    queue := e.queue.filter fun j => !gone j
    paused := e.paused.filter fun p => !gone p.job }

/-- Remove every job of the group led by `l`, none of which has a claim or a write (R111, R152). -/
def removeQuietJobs (l : Slot) (s : State) : State := removeJobs l (fun _ => false) s

/-! ### Ends of jobs (R147, R151) -/

/-- The active job reaches END (R151): its stop position is written and the end is reported; the group
enters ONLINE when no job of it is left (R92, R111). -/
def finishJob (j : Job) (s : State) : State :=
  let l := s.leaderOf j.slot
  let t := s |> dropActive |> syncStop j
  if t.hasJob l then t else enterOnline l .sequence false t

/-- An image error of the active job (R147): the group's other jobs are removed, and the group enters
ISOLATED with its sequence ended IMAGE_ERROR (R92, R111). -/
def failImage (j : Job) (s : State) : State :=
  let l := s.leaderOf j.slot
  s |> dropActive |> syncStop j |> removeQuietJobs l |> enterState l .isolated .imageError
    |> endSequence l .imageError

/-- A restore fault of the active job (R151): the group's other jobs are removed, and the attempt fails
with RESTORE_FAULT (R111). -/
def failJob (j : Job) (s : State) : State :=
  let l := s.leaderOf j.slot
  s |> dropActive |> syncStop j |> removeQuietJobs l |> attemptFailure l .restoreFault

/-- The active job begins a PAUSE (R148). -/
def pauseJob (j : Job) (d : DurCode) (s : State) : State :=
  (dropActive s).modEngine fun e => { e with
    paused := e.paused ++ [⟨{ j with position := j.position + 4 }, s.startTimer d⟩] }

/-! ### Items (R143) -/

/-- The item at the active job's position that passes the four checks of R143; none for an image error. -/
def State.checkedItem (s : State) (j : Job) : Option Item :=
  if j.position + 4 ≤ j.length then
    match itemOfWord (s.readWord (j.base + j.position)) with
    | none => none
    | some it =>
      if j.position + it.span ≤ j.length ∧ j.offset + it.run ≤ 4096 then some it else none
  else none

/-- Begin a writing item: it becomes the item in progress and its first write begins (R143). -/
def beginWriting (j : Job) (it : ItemInProgress) (s : State) : State :=
  let j' := { j with item := some it }
  beginWrite j' (s.nextDword j' it) (setActive j' s)

/-- Carry out one step of the active job: the next write of its item in progress, or its next item
(R142, R143). -/
def engineStep (j : Job) (s : State) : State :=
  match j.item with
  | some it => beginWrite j (s.nextDword j it) s
  | none =>
    match s.checkedItem j with
    | none => failImage j s
    | some (.dataItem n) => beginWriting j (.dataItem n (j.position + 4)) s
    | some (.repeatItem n) => beginWriting j (.repeatItem n (s.readWord (j.base + j.position + 4))) s
    | some (.seekItem o) => setActive { j with offset := 4 * o, position := j.position + 4 } s
    | some (.pauseItem d) => pauseJob j d s
    | some .endItem => finishJob j s

/-- Continue the active job, and the jobs that become active after it, until the engine has a write or a
claim, or its queue is empty (R142). -/
def engineLoop : Nat → State → State
  | 0, s => s
  | n + 1, s =>
    match s.engine.phase, s.engine.queue with
    | .idle, j :: _ => engineLoop n (engineStep j s)
    | _, _ => s

/-- A bound on the items that the queued jobs can still begin. -/
def engineFuel (e : Engine) : Nat := (e.queue.map fun j => j.length / 4 + 2).sum

/-- Run the engine from IDLE (R142). -/
def runEngine (s : State) : State := engineLoop (engineFuel s.engine) s

/-! ### Creation (R140) and the pause's end (R148) -/

/-- The job of a member at its group's entry into RESTORING (R140). -/
def newJob (i : Slot) (c : Settings) : Job := ⟨i, c.imageBase, c.imageLength, 0, none, 0, 0, false⟩

/-- Append a job to the tail of the queue (R140, R148); one that finds no other job and the engine idle becomes
active, with a burst count of 0 (R142). -/
def appendJob (j : Job) (s : State) : State :=
  s.modEngine fun e => { e with
    queue := e.queue ++ [j]
    burst := if e.phase = .idle ∧ e.queue = [] then 0 else e.burst }

/-- Create a member's job when it has an image; both progress fields become 0 (R140, R153). -/
def createJob (i : Slot) (s : State) : State :=
  let c := (s.slot i).settings
  if c.imageLength = 0 then s
  else
    let j := newJob i c
    s |> appendJob j |> syncWritesDone j |> syncStop j

/-- Entry into RESTORING (R92, R111, R140): one job for each member with an image, in slot order, and the
new head becomes active when the engine had no job. R140 and R142 do not say whether the first job becomes active
before or after the jobs of the later members are created; the model creates them all first: DESIGN CHOICE, unsafe
(notes/assumptions/38.md). -/
def enterRestoring (l : Slot) (s : State) : State :=
  s |> enterState l .restoring .sequence |> eachSlot (s.members l) createJob |> runEngine

/-- PAUSE_END (R148): the paused job of a slot rejoins the queue at the tail; an idle engine activates it. -/
def execPauseEnd (i : Slot) (s : State) : Host.Outcome State Fault Refusal :=
  .next (match s.engine.paused.find? fun p => p.job.slot == i with
    | some p =>
      if p.pause.due s.timebase then
        (s.modEngine fun e => { e with paused := e.paused.filter fun x => x.job.slot != i })
          |> appendJob p.job |> runEngine
      else s
    | none => s)

/-! ### The end of a write (R150, R152) -/

/-- Rotate the active job to the tail when ROTATE is set and its burst has reached the burst length
(R141). -/
def rotationTest (s : State) : State :=
  match s.engine.queue with
  | [] => s
  | j :: rest =>
    if s.engine.mode = .rotate ∧ s.engine.burstLength ≤ s.engine.burst then
      s.modEngine fun e => { e with queue := rest ++ [j], burst := 0 }
    else s

/-- A write of the active job ended SUCCESS (R150): writes done, the item, the burst count and the rotation
test; the engine goes on. -/
def writeSucceeded (j : Job) (s : State) : State :=
  ((setActive j.advance s).modEngine fun e => { e with phase := .idle, burst := satInc 4294967295 e.burst })
  |> syncWritesDone j.advance |> rotationTest |> runEngine

/-- A write ended while its job's removal was pending (R152): it is not judged; a SUCCESS raises writes done
and advances the item. The job is removed; after the group's last job this is the CANCEL safe point. -/
def writeEndedRemoving (ok : Bool) (j : Job) (s : State) : State :=
  let j' := if ok then j.advance else j
  let t := if ok then syncWritesDone j' s else s
  let u := t |> dropActive |> syncStop j'
  let l := s.leaderOf j.slot
  runEngine (if u.hasJob l then u else safePoint l .isolated u)

/-- The end of the engine's write reaches it (R150): `ok` for SUCCESS in full, false for a fault. -/
def restoreAnswer (ok : Bool) (s : State) : State :=
  match s.engine.phase, s.engine.queue with
  | .writeOut, j :: _ =>
    if j.removalPending then writeEndedRemoving ok j s
    else if ok then writeSucceeded j s
    else runEngine (failJob j s)
  | _, _ => s

/-! ### CANCEL, rail faults and presence losses (R152) -/

/-- The active job, when it belongs to the group led by `l`. -/
def State.activeOf (s : State) (l : Slot) : Option Job :=
  match s.engine.queue with
  | [] => none
  | j :: _ => if s.ownsJob l j then some j else none

/-- Take the active job of the group led by `l` off a claim: the engine leaves the pool wait list and is
idle (R152, R30). -/
def leaveClaim (s : State) : State :=
  withdrawPool .restore (s.modEngine fun e => { e with phase := .idle, burst := 0 })

/-- CANCEL in RESTORING (R100, R152): every job is removed, but for the one whose write is out, which is
marked for removal; with none left this is the safe point, and the next head runs after it: DESIGN CHOICE,
unsafe (notes/assumptions/36.md). -/
def cancelJobs (l : Slot) (s : State) : State :=
  match s.activeOf l, s.engine.phase with
  | some j, .writeOut =>
    (removeJobs l (fun x => x.slot == j.slot) s) |> setActive { j with removalPending := true }
  | some _, .claimWait _ => s |> removeQuietJobs l |> leaveClaim |> safePoint l .isolated |> runEngine
  | _, _ => s |> removeQuietJobs l |> safePoint l .isolated |> runEngine

/-- The removal of a group's jobs at a rail fault or a presence loss (R97, R98, R152): the RESTORE entry of
a write that is out is freed without a report (R47). The next head runs here, ahead of the group's own change of
state and notices: DESIGN CHOICE, unsafe (notes/assumptions/36.md). -/
def dropJobs (l : Slot) (s : State) : State :=
  match s.activeOf l, s.engine.phase with
  | some j, .writeOut =>
    (removeQuietJobs l s).modEngine (fun e => { e with phase := .idle, burst := 0 })
      |> freeEntryOf .restore j.slot |> runEngine
  | some _, .claimWait _ => s |> removeQuietJobs l |> leaveClaim |> runEngine
  | _, _ => s |> removeQuietJobs l |> runEngine

end Sys2Proof.Machine
end

