-- ==== Sys2Proof/Machine/Probe.lean ====
section
/-! DEFINITION. TRAINING and PROBING (R88 to R91, R109, R110): the train limit, the identity reads with
their RETRY waits, the probe limit, and what an answer fixes. -/

namespace Sys2Proof.Machine

/-- Entry into PROBING (R89, R110): the probe limit starts and every member claims its identity read. -/
def enterProbing (l : Slot) (s : State) : State :=
  s |> enterState l .probing .sequence |> startLimit l (fun c => c.probeLimit)
    |> eachSlot (s.members l) claimProbe

/-- Entry into TRAINING (R88, R109, R133): the train limit starts; with every link up, TRAINING ends at
once. -/
def enterTraining (l : Slot) (s : State) : State :=
  let t := s |> enterState l .training .sequence |> startLimit l (fun c => c.trainLimit)
  if t.allLines l fun x => x.linkUp then enterProbing l t else t

/-! ### Probe states of the members -/

/-- Whether some member has a read outstanding. -/
def State.anyOutstanding (s : State) (l : Slot) : Bool :=
  (s.members l).any fun m => (s.slot m).probe == some .outstanding

/-- Whether a probe state is one that waits for an entry or for the end of a RETRY. -/
def ProbeState.waits : ProbeState → Bool
  | .waitingEntry => true
  | .outstanding => false
  | .retryWait _ => true
  | .answered => false

/-- Whether a member's probe state waits. -/
def SlotRec.probeWaits (r : SlotRec) : Bool :=
  match r.probe with
  | none => false
  | some p => p.waits

/-- A member gives its read up where none is outstanding: a waiting claim is withdrawn, a RETRY wait is
stopped (R110 steps 1 and 2). -/
def giveUpProbe (m : Slot) (s : State) : State :=
  if (s.slot m).probeWaits then withdrawPool (.probe m) (s.setProbe m (some .answered)) else s

/-- Every member gives up the reads that are not outstanding. -/
def giveUpProbes (l : Slot) (s : State) : State := eachSlot (s.members l) giveUpProbe s

/-- Take the group's fixed outcome (R110): FAILED on an identity mismatch, else the attempt failure. -/
def takeOutcome (l : Slot) (why : Cause) (s : State) : State :=
  if why = .identityMismatch then enterFailed l .identityMismatch .identityMismatch s
  else attemptFailure l why s

/-- The first member outcome that is not a pass fixes the group's outcome; it is taken when no read is
outstanding (R110). -/
def fixOutcome (l : Slot) (why : Cause) (s : State) : State :=
  let t := (s.modSeq l fun q => { q with fixedOutcome := some why }) |> giveUpProbes l
  if t.anyOutstanding l then t else takeOutcome l why t

/-- PROBING ends when every member is done (R91, R110): RESTORING when any member has an image, else
ONLINE. -/
def leaveProbing (l : Slot) (s : State) : State :=
  if (s.members l).any fun m => decide ((s.slot m).settings.imageLength ≠ 0) then enterRestoring l s
  else enterOnline l .sequence false s

/-- A member's identity has passed (R110). -/
def probePassed (l : Slot) (s : State) : State :=
  if (s.members l).all fun m => (s.slot m).probe == some .answered then leaveProbing l s else s

/-! ### Answers (R89 to R91) -/

/-- What the PRT hands to the sequencer for a probe read (R34, R44). -/
inductive ProbeAnswer where
  | identity (w : Word)
  | retry
  | error
  | expired
deriving DecidableEq, Repr

/-- Judge an identity (R89, R91). -/
def judgeIdentity (l i : Slot) (w : Word) (s : State) : State :=
  let want := (s.slot i).settings.identity
  if w = 0xFFFFFFFF then fixOutcome l .probeOnes s
  else if want = 0 ∨ w = want then probePassed l s
  else fixOutcome l .identityMismatch s

/-- Judge a RETRY (R90): the read waits 1,024 microseconds unless the probe limit has passed. -/
def judgeRetry (l i : Slot) (s : State) : State :=
  if (s.slot l).seq.probeLimitPassed then fixOutcome l .probeLimit s
  else s.setProbe i (some (.retryWait ⟨s.timebase, 1024⟩))

/-- Judge an answer of member `i` (R89). -/
def judgeProbe (l i : Slot) (a : ProbeAnswer) (s : State) : State :=
  match a with
  | .identity w => judgeIdentity l i w s
  | .retry => judgeRetry l i s
  | .error => fixOutcome l .probeError s
  | .expired => fixOutcome l .probeExpired s

/-- An answer that is not judged: it only ends a read for which the group waits (R100, R110). A waiting
CANCEL goes ahead of a fixed outcome: DEDUCED, unsafe (notes/assumptions/14.md). -/
def probeEnded (l : Slot) (s : State) : State :=
  if s.anyOutstanding l then s
  else if (s.slot l).seq.cancelPending then safePoint l .isolated s
  else
    match (s.slot l).seq.fixedOutcome with
    | some why => takeOutcome l why s
    | none => s

/-- The end of member `i`'s identity read reaches the sequencer (R89, R100, R110). -/
def probeAnswer (i : Slot) (a : ProbeAnswer) (s : State) : State :=
  let l := s.leaderOf i
  let q := (s.slot l).seq
  if q.state = .probing ∧ (s.slot i).probe = some .outstanding then
    let t := s.setProbe i (some .answered)
    if q.cancelPending ∨ q.fixedOutcome ≠ none then probeEnded l t else judgeProbe l i a t
  else s

/-! ### Commands -/

/-- RETRY_WAIT_END (R90): the member issues a new read, with a new claim, unless the limit has passed. -/
def execRetryWaitEnd (i : Slot) (s : State) : Host.Outcome State Fault Refusal :=
  let l := s.leaderOf i
  .next (match (s.slot i).probe with
    | some (.retryWait t) =>
      if t.due s.timebase then
        if (s.slot l).seq.probeLimitPassed then fixOutcome l .probeLimit s else claimProbe i s
      else s
    | _ => s)

/-- PROBE_LIMIT_EXPIRY (R90): the limit has passed; a member that waits for an entry or in RETRY_WAIT fails
the attempt with PROBE_LIMIT. -/
def execProbeLimitExpiry (i : Slot) (s : State) : Host.Outcome State Fault Refusal :=
  let l := s.leaderOf i
  let q := (s.slot l).seq
  .next (if q.state = .probing ∧ dueNow q.limit s.timebase then
      let t := s.modSeq l fun x => { x with limit := none, probeLimitPassed := true }
      if (s.members l).any fun m => (s.slot m).probeWaits then fixOutcome l .probeLimit t else t
    else s)

/-- TRAIN_LIMIT_EXPIRY (R88, R109, R133): the attempt fails with TRAIN_LIMIT. -/
def execTrainLimitExpiry (i : Slot) (s : State) : Host.Outcome State Fault Refusal :=
  let l := s.leaderOf i
  let q := (s.slot l).seq
  .next (if q.state = .training ∧ dueNow q.limit s.timebase then attemptFailure l .trainLimit s else s)

/-- The end of a reset hold (R129): at level 1 every link is enabled, at level 2 every reset line released,
and the group enters TRAINING. -/
def endHold (l : Slot) (s : State) : State :=
  enterTraining l (if (s.slot l).seq.level ≤ 1 then driveLink l false s else driveReset l false s)

/-- The end of a reset hold that is a CANCEL's safe point (Table 4-6): at level 1 every link is enabled; at
level 2 the reset line stays asserted. -/
def endHoldCancelled (l : Slot) (s : State) : State :=
  safePoint l .isolated (if (s.slot l).seq.level ≤ 1 then driveLink l false s else s)

/-- RESET_HOLD_END (R129). -/
def execResetHoldEnd (i : Slot) (s : State) : Host.Outcome State Fault Refusal :=
  let l := s.leaderOf i
  let q := (s.slot l).seq
  .next (if q.state = .resetting ∧ dueNow q.limit s.timebase then
      if q.cancelPending then endHoldCancelled l s else endHold l s
    else s)

end Sys2Proof.Machine
end

