-- ==== Sys2Proof/Machine/Drain.lean ====
section
/-! DEFINITION. DRAINING (R80 to R82, R107): entry with a destination, and the three ends that lead to the
destination. -/

namespace Sys2Proof.Machine

/-- The sum of the live FABRIC counts of the group led by `l` is 0 (R107). -/
def State.groupEmpty (s : State) (l : Slot) : Bool :=
  (s.members l).all fun m => decide (s.liveFabric m = 0)

/-- The cause with which the power-off steps that follow a drain are recorded: SEQUENCE (R78 step 4), but
LINK_DOWN where a link loss ended the drain (R82). The choice between R78 and R82 there: DEDUCED, unsafe
(notes/assumptions/12.md). -/
def powerOffCause (why : Cause) : Cause := if why = .linkDown then .linkDown else .sequence

/-- Go to the drain's destination (R81): ISOLATED, the ladder, or the power-off steps. The ladder of a
RECOVER order has the levels formed at its taking, that of an automatic recovery the working ones (R83):
DEDUCED, unsafe (notes/assumptions/23.md). -/
def reachDestination (l : Slot) (d : Destination) (why : Cause) (s : State) : State :=
  let q := (s.slot l).seq
  let c := (s.slot l).settings
  match d with
  | .isolated => s |> enterState l .isolated why |> endSequence l .ok
  | .ladder =>
    if q.flight = .autoRecover then beginLadder l c.startLevel c.maxLevel why false s
    else beginLadder l q.startLevel q.maxLevel why false s
  | .powerOff => s |> powerOff l (powerOffCause why) |> endSequence l .ok

/-- The drain of the group led by `l` ends with a cause (R81, R82); with a CANCEL pending, its end is the
safe point (Table 4-6). -/
def endDrain (l : Slot) (why : Cause) (s : State) : State :=
  let q := (s.slot l).seq
  if q.cancelPending then safePoint l .isolated s
  else
    match q.destination with
    | some d => reachDestination l d why s
    | none => s

/-- The drain ends empty when every member's live FABRIC count is 0 (R81, R107). -/
def drainCheck (l : Slot) (s : State) : State :=
  if (s.slot l).seq.state = .draining ∧ s.groupEmpty l then endDrain l .sequence s else s

/-- Entry into DRAINING from ONLINE (R80): the sequence in flight, the state with its cause, the destination
and the drain limit; every gate changes to DRAIN (R5); an empty group ends its drain at once. -/
def enterDraining (l : Slot) (f : Flight) (d : Destination) (why : Cause) (s : State) : State :=
  (((s.modSeq l fun q => { q with flight := f }) |> enterState l .draining why).modSeq l fun q =>
      { q with destination := some d })
  |> startLimit l (fun c => c.drainLimit)
  |> drainGroup l
  |> drainCheck l

/-- DRAIN_EMPTY (R81): the live FABRIC count of every member is 0 and the drain ends with cause
SEQUENCE. -/
def execDrainEmpty (i : Slot) (s : State) : Host.Outcome State Fault Refusal :=
  .next (drainCheck (s.leaderOf i) s)

/-- DRAIN_LIMIT_EXPIRY (R81, R107): every member is fenced with reason DRAIN_EXPIRED and the drain ends. -/
def execDrainLimitExpiry (i : Slot) (s : State) : Host.Outcome State Fault Refusal :=
  let l := s.leaderOf i
  let q := (s.slot l).seq
  .next (if q.state = .draining ∧ dueNow q.limit s.timebase then
      s |> fenceGroup l .drainExpired |> endDrain l .drainExpired
    else s)

end Sys2Proof.Machine
end

