-- ==== Sys2Proof/Machine/Health.lean ====
section
/-! DEFINITION. Health scoring (chapter 3): counted events, thresholds, decay ticks, and the consumption of
triggers by policy and allowance (Table 3-6). -/

namespace Sys2Proof.Machine

/-- The weight of an event kind in the slot's working settings (R54). -/
def Settings.weight (c : Settings) : EventKind → Nat
  | .timeout => c.weightTimeout
  | .late => c.weightLate
  | .stray => c.weightStray
  | .malformed => c.weightMalformed
  | .linkDown => c.weightLinkDown
  | .alert => c.weightAlert

/-- The counts with one more event of a kind, each stopping at 65,535 (R58). -/
def EventCounts.add (n : EventCounts) : EventKind → EventCounts
  | .timeout => { n with timeout := satInc 65535 n.timeout }
  | .late => { n with late := satInc 65535 n.late }
  | .stray => { n with stray := satInc 65535 n.stray }
  | .malformed => { n with malformed := satInc 65535 n.malformed }
  | .linkDown => { n with linkDown := satInc 65535 n.linkDown }
  | .alert => { n with alert := satInc 65535 n.alert }

/-- The count of an event kind. -/
def EventCounts.get (n : EventCounts) : EventKind → Nat
  | .timeout => n.timeout
  | .late => n.late
  | .stray => n.stray
  | .malformed => n.malformed
  | .linkDown => n.linkDown
  | .alert => n.alert

/-- The offset of a kind's count in the slot record (Table 9-5). -/
def EventKind.offset : EventKind → Nat
  | .timeout => 0x64
  | .late => 0x66
  | .stray => 0x68
  | .malformed => 0x6A
  | .linkDown => 0x6C
  | .alert => 0x6E

/-- HEALTH_WARN codes (Table 9-8). -/
def codeScoreWarn : Nat := 32

/-- The code of a score trigger under OBSERVE (Table 9-8). -/
def codeScoreIsolate : Nat := 33

/-- The score after an event of weight `w` (R54). -/
def raised (score w : Nat) : Nat := min (score + w) 4095

/-- A rise through a threshold (R55, R56): non-zero, armed, and score before < threshold ≤ score after. -/
def risesThrough (threshold : Nat) (armed : Bool) (before after : Nat) : Bool :=
  armed && decide (threshold ≠ 0) && decide (before < threshold) && decide (threshold ≤ after)

/-! ### Triggers (R63 to R67, Table 3-6) -/

/-- Post AUTO_ACTION for the leader, naming the member and its score (R63). -/
def postAction (l i : Slot) (why : Cause) (r : Result) (s : State) : State :=
  postNotice .autoAction l.val why.code r.code (packHalves (s.slot i).meter.score i.val) s

/-- Lower the leader's allowance by 1 and write it (R66). -/
def spendAllowance (l : Slot) (s : State) : State :=
  (s.modSeq l fun q => { q with allowance := q.allowance - 1 }) |> syncGroup l

/-- What the policy makes of a trigger that takes the group out of service: the AUTO_ACTION result, and
whether a recovery begins (Table 3-6). -/
def State.consume (s : State) (l : Slot) : Result × Bool :=
  match (s.slot l).settings.policy with
  | .observe => (.isolating, false)
  | .isolate => (.isolating, false)
  | .recover =>
    if s.regs.run then
      if (s.slot l).seq.allowance = 0 then (.allowanceSpent, false) else (.recovering, true)
    else (.isolating, false)

/-- The notice, and for a recovery the unit of the allowance, of a trigger (R63, R66). -/
def announce (l i : Slot) (why : Cause) (s : State) : State :=
  let c := s.consume l
  (if c.2 then spendAllowance l s else s) |> postAction l i why c.1

/-- A score trigger of member `i` is consumed (R63 to R67, R112): HEALTH_WARN under OBSERVE, else a drain. -/
def scoreTrigger (l i : Slot) (s : State) : State :=
  if (s.slot l).settings.policy = .observe then
    postNotice .healthWarn l.val codeScoreIsolate 0 (packHalves (s.slot i).meter.score i.val) s
  else if (s.consume l).2 then announce l i .score s |> enterDraining l .autoRecover .ladder .score
  else announce l i .score s |> enterDraining l .autoIsolate .isolated .score

/-- A link-down trigger of member `i` is consumed, after the fence (R63 to R67, R96, R112): the recovery
begins at the start level, or the group enters ISOLATED. -/
def linkTrigger (l i : Slot) (s : State) : State :=
  let t := announce l i .linkDown s
  if (s.consume l).2 then
    let c := (s.slot l).settings
    (t.modSeq l fun q => { q with flight := .autoRecover }) |> beginLadder l c.startLevel c.maxLevel .linkDown false
  else
    (t.modSeq l fun q => { q with flight := .autoIsolate }) |> enterState l .isolated .linkDown
      |> endSequence l .ok

/-! ### Counted events (R53 to R58) -/

/-- Whether the meter counts events in a sequencer state (R53). -/
def countsIn (st : SeqState) : Bool := st == .online || st == .draining

/-- The thresholds of a counted event: HEALTH_WARN with code SCORE_WARN before any trigger (R55, R56). A
LINK_DOWN hands no score trigger on (R57). -/
def testThresholds (i : Slot) (k : EventKind) (before : Nat) (s : State) : State :=
  let c := (s.slot i).settings
  let m := (s.slot i).meter
  let warns := risesThrough c.warn m.warnArmed before m.score
  let isolates := risesThrough c.isolate m.isolateArmed before m.score
  let t := s.modMeter i fun x => { x with
    warnArmed := x.warnArmed && !warns
    isolateArmed := x.isolateArmed && !isolates }
  let u := if warns then
      postNotice .healthWarn i.val codeScoreWarn 0 (packHalves m.score k.code) t
    else t
  if isolates && decide (k ≠ .linkDown) && decide (s.stateOf i = .online) then scoreTrigger (s.leaderOf i) i u
  else u

/-- A counted event: its count rises, its weight is added, and the thresholds are tested (R54, R58). -/
def countEvent (i : Slot) (k : EventKind) (s : State) : State :=
  let m := (s.slot i).meter
  let n := m.counts.add k
  let t := if n.get k = m.counts.get k then s
    else (s.modMeter i fun x => { x with counts := n }) |> putHalf (slotBase i + k.offset) (BitVec.ofNat 16 (n.get k))
  t |> setScore i (raised m.score ((s.slot i).settings.weight k)) |> testThresholds i k m.score

/-- A health event reaches slot `i`'s meter (R52, R53): counted in ONLINE and DRAINING only. -/
def healthEvent (i : Slot) (k : EventKind) (s : State) : State :=
  if countsIn (s.stateOf i) then countEvent i k s else s

/-! ### Decay (R59) -/

/-- Whether the next tick of a decay phase is due: `P` after the last one. -/
def DecayPhase.due (d : DecayPhase) (now : Word) : Bool :=
  decide (d.period ≤ age now (d.start + BitVec.ofNat 32 (d.ticks * d.period)))

/-- A decay tick (R59): the score falls by D, and each threshold is armed by its test. -/
def decay (i : Slot) (d : DecayPhase) (s : State) : State :=
  let c := (s.slot i).settings
  let v := (s.slot i).meter.score - c.decayStep
  (s |> setScore i v).modMeter i fun m => { m with
    isolateArmed := m.isolateArmed || decide (v < c.isolate)
    warnArmed := m.warnArmed || decide (v ≤ c.warn / 2)
    decay := some { d with ticks := d.ticks + 1 } }

/-- DECAY_TICK (R59). -/
def execDecayTick (i : Slot) (s : State) : Host.Outcome State Fault Refusal :=
  .next (match (s.slot i).meter.decay with
    | some d => if d.due s.timebase then decay i d s else s
    | none => s)

end Sys2Proof.Machine
end

