-- ==== Sys2Proof/Machine/Traffic.lean ====
section
/-! DEFINITION. Card completions (R12 to R14, R31 to R36) and the Expiry Scanner (R42 to R44, R46). -/

namespace Sys2Proof.Machine

/-! ### Completions in OPEN and DRAIN -/

/-- The data bytes of a completion: those it carries, and free values for those it only counts. -/
def completionBytes (c : Completion) (draw : Nat) : List Byte :=
  c.data.take c.byteCount ++ (List.range (c.byteCount - c.data.length)).map fun k => Config.uncarriedByte (draw + k)

/-- An entry with a completion applied: bytes owed falls and the progress stamp is now (R32). -/
def Entry.apply (e : Entry) (c : Completion) (now : Word) : Entry :=
  { e with owed := e.owed - c.byteCount, progress := now }

/-- Whether an applied completion ends the entry (R32, R34). -/
def Entry.ends (e : Entry) (c : Completion) : Bool := decide (e.owed = 0) || decide (c.status ≠ .success)

/-- A completion within the bytes owed of a FABRIC entry (R32): forwarded, as the final answer when it ends
the entry. -/
def applyFabric (i : Slot) (p : Nat) (e : Entry) (c : Completion) (s : State) : State :=
  let e' := e.apply c s.timebase
  if e'.ends c then
    s |> endEntry p |> sendHost i (.completion c) |> examinePool |> drainCheck (s.leaderOf i)
  else s |> updateEntry p e' |> sendHost i (.completion c)

/-- End a FABRIC entry by stand-in, with its retired tag and health event (R33, R43): the freed position is
offered, the event reaches the meter, and the drain end is tested after the event (R27). -/
def endByStandIn (i : Slot) (p : Nat) (e : Entry) (why : Reason) (k : EventKind) (s : State) : State :=
  s |> endEntry p |> retireKey e.key |> standIn i e why |> examinePool |> healthEvent i k
    |> drainCheck (s.leaderOf i)

/-- A completion that matches no live FABRIC entry: late or stray (R35, R36). -/
def unmatched (i : Slot) (c : Completion) (s : State) : State :=
  let k : RetiredTag := ⟨i, c.requester, c.tag⟩
  if s.prt.retired.contains k then s |> unretireKey k |> healthEvent i .late else healthEvent i .stray s

/-- A card completion in OPEN or DRAIN (R12). -/
def matchFabric (i : Slot) (c : Completion) (s : State) : State :=
  match s.findEntry fun e => e.isFabricOf i && e.hasKey i c.requester c.tag with
  | some (p, e) =>
    if c.byteCount ≤ e.owed then applyFabric i p e c s else endByStandIn i p e .malformed .malformed s
  | none => unmatched i c s

/-! ### Completions in PRIVATE -/

/-- The identity that the joined data of a probe read form, first byte lowest (R34). -/
def identityOf : List Byte → Word
  | b0 :: b1 :: b2 :: b3 :: _ => wordOfBytes b0 b1 b2 b3
  | _ => 0

/-- The answer that a completion which ends a probe read hands on (R34). -/
def probeResult (e : Entry) (st : Status) : ProbeAnswer :=
  match st with
  | .success => .identity (identityOf e.answered)
  | .retry => .retry
  | .unsupported => .error
  | .abort => .error

/-- Hand the end of an own entry to its owner (R34, R44). -/
def ownerAnswer (i : Slot) (o : Origin) (a : ProbeAnswer) (ok : Bool) (s : State) : State :=
  match o with
  | .probe => probeAnswer i a s
  | .restore => restoreAnswer ok s
  | .fabric => s

/-- An own entry with a completion applied: its data are joined (R34). -/
def Entry.collect (e : Entry) (c : Completion) (now : Word) (draw : Nat) : Entry :=
  { e.apply c now with answered := e.answered ++ completionBytes c draw }

/-- A completion within the bytes owed of an own entry (R34). -/
def applyOwn (i : Slot) (p : Nat) (e : Entry) (c : Completion) (s : State) : State :=
  let e' := e.collect c s.timebase s.draws
  let t := { s with draws := s.draws + (c.byteCount - c.data.length) }
  if e'.ends c then
    t |> endEntry p |> examinePool
      |> ownerAnswer i e.origin (probeResult e' c.status) (decide (c.status = .success))
  else updateEntry p e' t

/-- A card completion in PRIVATE (R14, R34): matched against the slot's own entries, else counted. -/
def matchOwn (i : Slot) (c : Completion) (s : State) : State :=
  match s.findEntry fun e => e.origin != .fabric && e.hasKey i c.requester c.tag with
  | some (p, e) =>
    if c.byteCount ≤ e.owed then applyOwn i p e c s
    else s |> endEntry p |> examinePool |> ownerAnswer i e.origin .error false
  | none => countCard i s

/-- CARD_COMPLETION (R12 to R14). -/
def execCardCompletion (i : Slot) (c : Completion) (s : State) : Host.Outcome State Fault Refusal :=
  .next (match s.gateState i with
    | .opened => matchFabric i c s
    | .drain => matchFabric i c s
    | .fenced => countCard i s
    | .privatePath => matchOwn i c s)

/-! ### The Expiry Scanner (R42) -/

/-- The limit of an entry's kind in the working settings of its slot (R42). -/
def State.limitOf (s : State) (e : Entry) : Nat :=
  match e.kind with
  | .memoryRead _ => (s.slot e.slot).settings.dataLimit.micros
  | .configRead _ => (s.slot e.slot).settings.configLimit.micros
  | .configWrite _ => (s.slot e.slot).settings.configLimit.micros

/-- Whether the entry at a position has reached its limit at the sweep's count. -/
def State.expiredAt (s : State) (now : Word) (p : Nat) : Bool :=
  match s.entryAt p with
  | some e => decide (s.limitOf e ≤ age now e.progress)
  | none => false

/-- The sweep in progress; at a multiple of 16 a sweep that has not begun begins with every live entry
(R42). -/
def State.sweepNow (s : State) : Option Sweep :=
  match s.prt.sweep with
  | some w => some w
  | none =>
    if s.timebase.toNat % 16 = 0 then some ⟨s.timebase, s.prt.entries.map fun x => x.1⟩ else none

/-- The position that the sweep visits next among those whose entry has expired. -/
def State.nextExpired (s : State) : Option Nat :=
  match s.sweepNow with
  | some w => w.left.find? fun p => s.expiredAt w.now p
  | none => none

/-- The sweep has visited the positions up to `p`. -/
def visitTo (p : Nat) (s : State) : State :=
  match s.sweepNow with
  | some w => s.modPrt fun t => { t with sweep := some { w with left := w.left.filter fun q => decide (p < q) } }
  | none => s

/-- EXPIRY_SWEEP (R42): a sweep of the live entries begins at a multiple of 16. -/
def execExpirySweep (s : State) : Host.Outcome State Fault Refusal :=
  .next (s.modPrt fun t => { t with sweep := s.sweepNow })

/-- FABRIC_ENTRY_EXPIRY (R43): the sweep's next expired entry is a FABRIC entry and ends with an EXPIRED
stand-in. -/
def execFabricEntryExpiry (p : Position) (s : State) : Host.Outcome State Fault Refusal :=
  .next (match s.nextExpired, s.entryAt p.val with
    | some q, some e =>
      if q = p.val ∧ e.origin = .fabric then endByStandIn e.slot p.val e .expired .timeout (visitTo p.val s)
      else s
    | _, _ => s)

/-- PROBE_RESTORE_ENTRY_EXPIRY (R44): the sweep's next expired entry is the part's own; its owner takes a
fault. -/
def execProbeRestoreEntryExpiry (p : Position) (s : State) : Host.Outcome State Fault Refusal :=
  .next (match s.nextExpired, s.entryAt p.val with
    | some q, some e =>
      if q = p.val ∧ e.origin ≠ .fabric then
        visitTo p.val s |> endEntry p.val |> examinePool |> ownerAnswer e.slot e.origin .expired false
      else s
    | _, _ => s)

end Sys2Proof.Machine
end

