-- ==== Sys2Proof/Machine/Lines.lean ====
section
/-! DEFINITION. The slot lines as they report: power-good (R114, R116, R117), link status (R96, R131),
presence (R98, R99, R134), alert (R136) and the indicator's blink (R138). -/

namespace Sys2Proof.Machine

/-! ### POWERING -/

/-- An attempt failure in POWERING: the four steps of R116, then the level choice. -/
def failPowering (l : Slot) (kind : Cause) (s : State) : State := s |> leavePowering l |> attemptFailure l kind

/-- POWER_GOOD_RISE (R114, R116): the level is recorded; in POWERING it is the member's rise within the
limit. -/
def execPowerGoodRise (i : Slot) (s : State) : Host.Outcome State Fault Refusal :=
  let l := s.leaderOf i
  .next (if (s.slot i).lines.powerGood then s
    else
      let t := s.modLines i fun x => { x with powerGood := true }
      if s.stateOf i = .powering ∧ !(s.slot i).lines.risen then t |> markRisen l i |> stopLimitWhenRisen l else t)

/-- Whether a sequencer record is in a rail-on state other than POWERING (R97). -/
def Sequencer.railOnAtRest (q : Sequencer) : Bool :=
  match q.state with
  | .resetting => true
  | .training => true
  | .probing => true
  | .restoring => true
  | .online => true
  | .draining => true
  | .isolated => true
  | .failed => q.railKept
  | .vacant => false
  | .unpowered => false
  | .awaitPower => false
  | .powering => false

/-- Fence every member when the gate is OPEN or DRAIN (R97 step 1, R98 step 1). -/
def fenceWhenOpen (l : Slot) (why : Reason) (s : State) : State :=
  match s.gateState l with
  | .opened => fenceGroup l why s
  | .drain => fenceGroup l why s
  | .fenced => s
  | .privatePath => s

/-- Free a member's live PROBE entry when its read is outstanding (R47). -/
def freeProbe (i : Slot) (s : State) : State :=
  if (s.slot i).probe = some .outstanding then
    freeEntryOf .probe i (s.setProbe i (some .answered))
  else s

/-- The group's own requests are given up: jobs removed, waiting claims withdrawn, live PROBE and RESTORE
entries freed (R97 step 3, R98 step 4). The rules and R47 do not say whether the waiting claims of other members are
withdrawn before the position of a freed PROBE entry is offered; the model withdraws them all first: DESIGN CHOICE,
unsafe (notes/assumptions/37.md). -/
def dropOwnRequests (l : Slot) (s : State) : State :=
  s |> dropJobs l |> giveUpProbes l |> eachSlot (s.members l) freeProbe

/-- A notice about a loss at a member: the state at the loss and the member in the detail word (R97, R98). -/
def postLoss (k : NoticeKind) (why : Cause) (l i : Slot) (st : SeqState) (result : Nat) (s : State) : State :=
  postNotice k l.val why.code result (packHalves i.val st.code) s

/-- A rail fault at member `i` (R97). -/
def railFault (l i : Slot) (s : State) : State :=
  let q := (s.slot l).seq
  s |> fenceWhenOpen l .railFault |> switchOff l |> driveReset l true |> dropOwnRequests l
    |> enterState l .unpowered .railFault
    |> postLoss .railFault .railFault l i q.state (if q.flight = .none then 0 else Result.railFault.code)
    |> endSequence l .railFault

/-- POWER_GOOD_FALL (R114, Table 6-2). -/
def execPowerGoodFall (i : Slot) (s : State) : Host.Outcome State Fault Refusal :=
  let l := s.leaderOf i
  .next (if !(s.slot i).lines.powerGood then s
    else
      let t := s.modLines i fun x => { x with powerGood := false }
      if s.stateOf i = .powering then
        if (s.slot i).lines.risen then failPowering l .powerGoodLost t else t
      else if (s.seqOf i).railOnAtRest then railFault l i t
      else t)

/-- POWER_GOOD_LIMIT_EXPIRY (R116): the attempt fails with POWER_GOOD_LIMIT. -/
def execPowerGoodLimitExpiry (i : Slot) (s : State) : Host.Outcome State Fault Refusal :=
  let l := s.leaderOf i
  let q := (s.slot l).seq
  .next (if q.state = .powering ∧ dueNow q.limit s.timebase then failPowering l .powerGoodLimit s else s)

/-- The release at the end of POWERING (R117): grant returned, reset lines released, links enabled,
TRAINING. -/
def release (l : Slot) (s : State) : State :=
  s |> returnGrant l |> driveReset l false |> driveLink l false |> enterTraining l

/-- STABILITY_DWELL_END (R117). -/
def execStabilityDwellEnd (i : Slot) (s : State) : Host.Outcome State Fault Refusal :=
  let l := s.leaderOf i
  .next (if s.stateOf i = .powering ∧ dueNow (s.slot i).lines.dwell s.timebase then
      let t := s.modLines i fun x => { x with dwell := none, dwellEnded := true }
      if t.allLines l fun x => x.dwellEnded && x.powerGood then release l t else t
    else s)

/-! ### Link status -/

/-- Set a member's link-up flag and write it (R106, R131). -/
def setLink (i : Slot) (up : Bool) (s : State) : State :=
  (s.modLines i fun x => { x with linkUp := up }) |> syncSlot i

/-- LINK_UP (R96, R109, R131): a change of the flag in every state; in TRAINING the last member's link starts
PROBING. A report taken after the link was disabled still sets the flag (R88); before READY no link can be up. -/
def execLinkUp (i : Slot) (s : State) : Host.Outcome State Fault Refusal :=
  let l := s.leaderOf i
  .next (if (s.slot i).lines.linkUp || !s.regs.ready then s
    else
      let t := setLink i true s
      if s.stateOf i = .training ∧ t.allLines l fun x => x.linkUp then enterProbing l t else t)

/-- LINK_DOWN (R57, R82, R96, R131): the flag, the health event, and then the state's action: a trigger in
ONLINE, the end of a drain in DRAINING. That a HEALTH_WARN goes ahead of the notices of the fence and of the
drain's end in DRAINING: DESIGN CHOICE, unsafe (notes/assumptions/32.md). -/
def execLinkDown (i : Slot) (s : State) : Host.Outcome State Fault Refusal :=
  let l := s.leaderOf i
  .next (if !(s.slot i).lines.linkUp then s
    else
      let t := s |> setLink i false |> healthEvent i .linkDown
      if s.stateOf i = .online then t |> fenceGroup l .linkDown |> linkTrigger l i
      else if s.stateOf i = .draining then t |> fenceGroup l .linkDown |> endDrain l .linkDown
      else t)

/-! ### Presence -/

/-- Before READY the initial state follows the recorded presence (R71): VACANT or UNPOWERED at rest. DESIGN
CHOICE, unsafe (notes/assumptions/10.md). -/
def initialState (i : Slot) (s : State) : State :=
  s.modSeq i fun q => { q with state := if (s.slot i).lines.present then .unpowered else .vacant }

/-- In POWERING the grant is returned, in AWAIT_POWER the place in the list is given up (R98 step 3). -/
def giveUpPower (l : Slot) (st : SeqState) (s : State) : State :=
  if st = .powering then returnGrant l s else if st = .awaitPower then withdrawGrant l s else s

/-- Presence is lost at member `i` of a group that is not VACANT (R98, R135). -/
def removeCard (l i : Slot) (s : State) : State :=
  let st := (s.slot l).seq.state
  s |> fenceWhenOpen l .removed |> switchOff l |> driveReset l true |> giveUpPower l st |> dropOwnRequests l
    |> purgeGroup l |> enterState l .vacant .removed
    |> postLoss .cardRemoved .removed l i st 0
    |> endSequence l .noCard

/-- PRESENCE_LOSS (R98, R134). -/
def execPresenceLoss (i : Slot) (s : State) : Host.Outcome State Fault Refusal :=
  .next (if !(s.slot i).lines.present then s
    else
      let t := s.modLines i fun x => { x with present := false }
      if !s.regs.ready then initialState i t
      else if s.stateOf i = .vacant then t
      else removeCard (s.leaderOf i) i t)

/-- PRESENCE_GAIN (R99, R134). -/
def execPresenceGain (i : Slot) (s : State) : Host.Outcome State Fault Refusal :=
  let l := s.leaderOf i
  .next (if (s.slot i).lines.present then s
    else
      let t := s.modLines i fun x => { x with present := true }
      if !s.regs.ready then initialState i t
      else if s.stateOf i = .vacant ∧ t.groupPresent l then
        t |> enterState l .unpowered .arrived |> postNotice .cardArrived l.val Cause.arrived.code 0 0
      else t)

/-! ### Alert and indicator -/

/-- Whether an edge select selects a change to a level (R136). -/
def AlertSelect.selects (a : AlertSelect) (level : Bool) : Bool :=
  match a with
  | .none => false
  | .rising => level
  | .falling => !level
  | .both => true

/-- ALERT_EDGE (R136): a change of the level is recorded, and a selected edge raises an ALERT event. -/
def execAlertEdge (i : Slot) (level : Bool) (s : State) : Host.Outcome State Fault Refusal :=
  .next (if (s.slot i).lines.alert = level then s
    else
      let t := s.modLines i fun x => { x with alert := level }
      if (s.slot i).settings.alertSelect.selects level then healthEvent i .alert t else t)

/-- The length of the indicator's present on or off time; none for a steady pattern (Table 7-2). -/
def Indicator.phase (d : Indicator) : Option Nat :=
  d.pattern.times.map fun t => if d.lit then t.1 else t.2

/-- Whether the indicator's level is to change now (R138). -/
def Indicator.toggles (d : Indicator) (now : Word) : Bool :=
  match d.phase with
  | some n => decide (n ≤ age now d.since)
  | none => false

/-- The indicator with its level changed at the end of its present time (R138). -/
def Indicator.toggle (d : Indicator) : Indicator :=
  { d with lit := !d.lit, since := d.since + BitVec.ofNat 32 (d.phase.getD 0) }

/-- INDICATOR_BLINK_TOGGLE (R137, R138). -/
def execIndicatorBlinkToggle (i : Slot) (s : State) : Host.Outcome State Fault Refusal :=
  .next (if (s.slot i).lines.indicator.toggles s.timebase then
      s.modLines i fun x => { x with indicator := x.indicator.toggle }
    else s)

end Sys2Proof.Machine
end

