-- ==== Sys2Proof/Machine/Orders.lean ====
section
/-! DEFINITION. The orders that move a slot, and REFILL, LOCATE and LIST_PENDING: what each does once it is
taken and has passed tests 1 to 3 of R159 (R48, R68, R74 to R78, R100, R101, R139), and how an order
reports its end (R160). -/

namespace Sys2Proof.Machine

/-! ### The end of an order (R160) -/

/-- An order does not write the outcome result and code while the leader has an order in flight, nor at the
record of a CANCEL that wrote PENDING and waits (R160, first case). For a member's record: DEDUCED, unsafe
(notes/assumptions/15.md). -/
def State.hushed (s : State) (i : Slot) : Bool :=
  (s.seqOf i).flight.isOrder || ((s.seqOf i).cancelPending && s.leaderOf i == i)

/-- The detail word of ORDER_DONE for a slot order, apart from the BAD_SETTING ends and LIST_PENDING
(R160). -/
def State.endDetail (s : State) (i : Slot) : Order → Word
  | .bringUp => levelDetail (s.seqOf i)
  | .isolate => levelDetail (s.seqOf i)
  | .recover => levelDetail (s.seqOf i)
  | .powerDown => levelDetail (s.seqOf i)
  | .configure => 0
  | .resume => 0
  | .cancel => 0
  | .refill => 0
  | .locate => 0
  | .listPending => 0
  | .setCommon => 0

/-- An order ends with a result and a detail word: the result is written unless hushed, then the notice is
posted (R160). -/
def endOrderWith (hush : Bool) (i : Slot) (o : Order) (r : Result) (detail : Word) (s : State) : State :=
  (if hush then s else writeOutcome i r o s) |> postOrderDone i.val o.code r detail

/-- An order ends with a result and its usual detail word. -/
def endOrder (hush : Bool) (i : Slot) (o : Order) (r : Result) (s : State) : State :=
  endOrderWith hush i o r (s.endDetail i o) s

/-- Whether the group led by `l` is UNPOWERED at rest. -/
def Sequencer.unpoweredAtRest (q : Sequencer) : Bool := q.state == .unpowered && q.flight == .none

/-- The order becomes the sequence in flight. -/
def setFlight (l : Slot) (f : Flight) (s : State) : State := s.modSeq l fun q => { q with flight := f }

/-! ### BRING_UP, ISOLATE, RESUME -/

/-- A BRING_UP begins (R74, R171): its ladder has start and max level 3, exempt from the lock when the rail
is off (R83). -/
def startBringUp (l : Slot) (s : State) : State :=
  s |> setFlight l .bringUp |> beginLadder l 3 3 .order (!(s.groupRail l))

/-- BRING_UP (R74). -/
def doBringUp (h : Bool) (l : Slot) (s : State) : State :=
  let q := (s.slot l).seq
  if q.unpoweredAtRest || q.state == .failed then startBringUp l s
  else if q.state = .vacant then endOrder h l .bringUp .noCard s
  else endOrder h l .bringUp .busy s

/-- ISOLATE (R75). -/
def doIsolate (h : Bool) (l : Slot) (s : State) : State :=
  match (s.slot l).seq.state with
  | .online => enterDraining l .isolate .isolated .order s
  | .isolated => endOrder h l .isolate .ok s
  | _ => endOrder h l .isolate .busy s

/-- Whether every member is ready for RESUME (R76, R109). -/
def State.resumable (s : State) (l : Slot) : Bool :=
  s.allLines l fun x => x.linkUp && !x.resetAsserted && x.rail

/-- RESUME (R76). -/
def doResume (h : Bool) (l : Slot) (s : State) : State :=
  match (s.slot l).seq.state with
  | .isolated =>
    if s.resumable l then s |> enterOnline l .order true |> endOrder h l .resume .ok
    else endOrder h l .resume .notReady s
  | _ => endOrder h l .resume .busy s

/-! ### RECOVER (R77) -/

/-- A level formed from an argument, where 0 stands for the working setting (R77 step 1). -/
def formLevel (arg working : Nat) : Nat := if arg = 0 then working else arg

/-- The byte offset that the detail word of RECOVER ending BAD_SETTING names (R160). -/
def badLevelOffset (a1 a2 : Nat) : Nat := if 3 < a1 then 0x44 else if 3 < a2 then 0x48 else 0x44

/-- RECOVER from ONLINE: the levels are kept for the ladder that follows the drain. -/
def recoverOnline (l : Slot) (start max : Nat) (s : State) : State :=
  (s.modSeq l fun q => { q with startLevel := start, maxLevel := max })
  |> enterDraining l .recover .ladder .order

/-- RECOVER at a state (R77 step 3). -/
def recoverFrom (h : Bool) (l : Slot) (start max : Nat) (s : State) : State :=
  match (s.slot l).seq.state with
  | .online => recoverOnline l start max s
  | .isolated => s |> setFlight l .recover |> beginLadder l start max .order false
  | .failed =>
    if (s.slot l).seq.railKept then s |> setFlight l .recover |> beginLadder l start max .order false
    else if s.groupLock l then endOrder h l .recover .locked s
    else s |> setFlight l .recover |> beginLadder l 3 3 .order false
  | _ => endOrder h l .recover .busy s

/-- RECOVER (R77): step 2, which looks at the arguments, comes before the state in step 3. That this order also
holds in POWERING, where R118 says BUSY of every such order: DEDUCED, unsafe (notes/assumptions/34.md). -/
def doRecover (h : Bool) (l : Slot) (a1 a2 : Nat) (s : State) : State :=
  let start := formLevel a1 (s.slot l).settings.startLevel
  let max := formLevel a2 (s.slot l).settings.maxLevel
  if 3 < a1 ∨ 3 < a2 ∨ max < start then
    endOrderWith h l .recover .badSetting (packHalves (badLevelOffset a1 a2) l.val) s
  else recoverFrom h l start max s

/-! ### POWER_DOWN (R78) -/

/-- POWER_DOWN at a state in which it is taken and no lock is set. -/
def powerDownFrom (h : Bool) (l : Slot) (s : State) : State :=
  match (s.slot l).seq.state with
  | .online => enterDraining l .powerDown .powerOff .order s
  | .unpowered => endOrder h l .powerDown .ok s
  | _ => s |> powerOff l .order |> endOrder h l .powerDown .ok

/-- Whether POWER_DOWN is taken in the present state. -/
def Sequencer.takesPowerDown (q : Sequencer) : Bool :=
  q.state == .online || q.state == .isolated || q.state == .failed || q.unpoweredAtRest

/-- POWER_DOWN (R78). -/
def doPowerDown (h : Bool) (l : Slot) (s : State) : State :=
  if (s.slot l).seq.takesPowerDown then
    if s.groupLock l then endOrder h l .powerDown .locked s else powerDownFrom h l s
  else endOrder h l .powerDown .busy s

/-! ### CANCEL (R100, R101) -/

/-- CANCEL in PROBING: waiting claims are withdrawn, RETRY waits and the probe limit stop; with no read
outstanding this is the safe point (Table 4-6, R110). -/
def cancelProbing (l : Slot) (s : State) : State :=
  let t := (s.modSeq l fun q => { q with limit := none }) |> giveUpProbes l
  if t.anyOutstanding l then t else safePoint l .isolated t

/-- CANCEL by the state when it is taken (Table 4-6). -/
def cancelFrom (l : Slot) (s : State) : State :=
  match (s.slot l).seq.state with
  | .draining => s.modSeq l fun q => { q with destination := some .isolated }
  | .resetting => s
  | .unpowered => safePoint l .unpowered s
  | .awaitPower => s |> withdrawGrant l |> safePoint l .unpowered
  | .powering => s |> leavePowering l |> safePoint l .unpowered
  | .training => safePoint l .isolated s
  | .probing => cancelProbing l s
  | .restoring => cancelJobs l s
  | .vacant => s
  | .online => s
  | .isolated => s
  | .failed => s

/-- CANCEL (R100, R101). -/
def doCancel (h : Bool) (l : Slot) (s : State) : State :=
  let q := (s.slot l).seq
  if q.flight = .none then endOrder h l .cancel .idle s
  else if q.cancelPending then endOrder h l .cancel .busy s
  else (s.modSeq l fun x => { x with cancelPending := true }) |> cancelFrom l

/-! ### REFILL, LOCATE, LIST_PENDING -/

/-- Set the allowance, and write it when it changed (R68). -/
def setAllowance (l : Slot) (n : Nat) (s : State) : State :=
  if (s.slot l).seq.allowance = n then s
  else (s.modSeq l fun q => { q with allowance := n }) |> syncGroup l

/-- REFILL (R68): the allowance becomes n, at most 15. -/
def doRefill (h : Bool) (l : Slot) (n : Nat) (s : State) : State :=
  s |> setAllowance l (min n 15) |> endOrder h l .refill .ok

/-- Set a member's LOCATE flag; the indicator follows (R137, R139). -/
def setLocate (i : Slot) (on : Bool) (s : State) : State :=
  (s.modLines i fun x => { x with locate := on }) |> refreshIndicator i

/-- LOCATE (R139). -/
def doLocate (h : Bool) (i : Slot) (arg : Nat) (s : State) : State :=
  s |> setLocate i (decide (arg ≠ 0)) |> endOrder h i .locate .ok

/-- The words of a listing entry (Table 9-6). -/
def listingWords (e : Entry) (now : Word) : List Word :=
  [packHalves (e.origin.code + 256 * requestKindCode e.kind) e.requester.toNat,
    packHalves e.tag.toNat e.length,
    (requestTarget e.kind).setWidth 32,
    (requestTarget e.kind >>> 32).setWidth 32,
    BitVec.ofNat 32 e.owed,
    e.issue,
    e.progress,
    now - e.progress]

/-- The order of a listing: oldest issue stamp first, then the lower position (R48 step 1). -/
def listsBefore (now : Word) (x y : Nat × Entry) : Bool :=
  let a := age now x.2.issue
  let b := age now y.2.issue
  if a = b then decide (x.1 ≤ y.1) else decide (b < a)

/-- Slot `i`'s live entries in listing order (R48). -/
def State.listing (s : State) (i : Slot) : List Entry :=
  (sortBy (listsBefore s.timebase) (s.prt.entries.filter fun x => x.2.slot == i)).map fun x => x.2

/-- The 48 words of the listing area: the first six entries, and unused entries of zeros (R48). -/
def listingArea (l : List Entry) (now : Word) : List Word :=
  let used := (l.take 6).flatMap fun e => listingWords e now
  used ++ List.replicate (48 - used.length) 0

/-- LIST_PENDING (R48, R49): the snapshot is written before the result, and its live count is the detail
word. -/
def doListPending (h : Bool) (i : Slot) (s : State) : State :=
  let n := s.liveCount i
  s |> putWords (slotBase i + 0x140) (listingArea (s.listing i) s.timebase)
    |> putWord (slotBase i + 0x84) (packHalves n 0)
    |> endOrderWith h i .listPending .ok (BitVec.ofNat 32 n)

end Sys2Proof.Machine
end

