-- ==== Sys2Proof/Machine/Configure.lean ====
section
/-! DEFINITION. CONFIGURE (R104, R105, R161, R162) and SET_COMMON (R126). -/

namespace Sys2Proof.Machine

/-! ### Reading a settings area (Table 9-4) -/

/-- The settings word of slot `i` at a byte offset of its record. -/
def State.setting (s : State) (i : Slot) (offset : Nat) : Word := s.readWord (slotBase i + offset)

/-- The settings that slot `i`'s area spells. -/
def State.settingsOf (s : State) (i : Slot) : Settings :=
  let w := s.setting i
  { join := (w 0x00).getLsbD 0
    lock := (w 0x00).getLsbD 1
    ones := (w 0x00).getLsbD 2
    policy := (policyOfCode (field (w 0x00) 8 8)).getD .observe
    alertSelect := (alertSelectOfCode (field (w 0x00) 16 8)).getD .none
    quota := field (w 0x04) 0 8
    allotment := field (w 0x04) 8 8
    attemptsPerLevel := field (w 0x04) 16 8
    startLevel := field (w 0x04) 24 4
    maxLevel := field (w 0x04) 28 4
    dataLimit := durCodeAt (w 0x08) 0
    configLimit := durCodeAt (w 0x08) 16
    drainLimit := durCodeAt (w 0x0C) 0
    resetHold := durCodeAt (w 0x0C) 16
    powerGoodLimit := durCodeAt (w 0x10) 0
    stabilityDwell := durCodeAt (w 0x10) 16
    dischargeDwell := durCodeAt (w 0x14) 0
    trainLimit := durCodeAt (w 0x14) 16
    probeLimit := durCodeAt (w 0x18) 0
    decayPeriod := durCodeAt (w 0x18) 16
    weightTimeout := field (w 0x1C) 0 8
    weightLate := field (w 0x1C) 8 8
    weightStray := field (w 0x1C) 16 8
    weightMalformed := field (w 0x1C) 24 8
    weightLinkDown := field (w 0x20) 0 8
    weightAlert := field (w 0x20) 8 8
    decayStep := field (w 0x20) 16 8
    warn := field (w 0x24) 0 16
    isolate := field (w 0x24) 16 16
    identity := w 0x28
    imageBase := (w 0x2C).toNat
    imageLength := (w 0x30).toNat
    ringBase := (w 0x34).toNat
    ringCount := (w 0x38).toNat }

/-! ### The checks of R161 -/

/-- 0x00: policy 0..2; alert select 0..3. -/
def flagsWordOk (w : Word) : Bool :=
  (policyOfCode (field w 8 8)).isSome && (alertSelectOfCode (field w 16 8)).isSome

/-- 0x04: quota 1..32; allotment 1..64; attempts per level 1..4; start and max level 1..3, start ≤ max. -/
def levelsWordOk (c : Settings) : Bool :=
  decide (1 ≤ c.quota ∧ c.quota ≤ 32) && decide (1 ≤ c.allotment ∧ c.allotment ≤ 64) &&
  decide (1 ≤ c.attemptsPerLevel ∧ c.attemptsPerLevel ≤ 4) && decide (1 ≤ c.startLevel ∧ c.startLevel ≤ 3) &&
  decide (1 ≤ c.maxLevel ∧ c.maxLevel ≤ 3) && decide (c.startLevel ≤ c.maxLevel)

/-- 0x24: WARN and ISOLATE 0..4095; WARN ≤ ISOLATE when both are non-zero. -/
def thresholdsOk (c : Settings) : Bool :=
  decide (c.warn ≤ 4095) && decide (c.isolate ≤ 4095) &&
  (decide (c.warn = 0) || decide (c.isolate = 0) || decide (c.warn ≤ c.isolate))

/-- 0x2C: with an image, a base that is a multiple of 16 and not below 0x1900. -/
def imageBaseOk (c : Settings) : Bool :=
  decide (c.imageLength = 0) || (decide (c.imageBase % 16 = 0) && decide (0x1900 ≤ c.imageBase))

/-- 0x30: a length that is a multiple of 4 and ends within exchange memory. -/
def imageLengthOk (c : Settings) : Bool :=
  decide (c.imageLength = 0) ||
    (decide (c.imageLength % 4 = 0) && decide (c.imageBase + c.imageLength ≤ 0x10000))

/-- 0x34: with a ring, a base that is a multiple of 32 and not below 0x1900. -/
def ringBaseOk (c : Settings) : Bool :=
  decide (c.ringCount = 0) || (decide (c.ringBase % 32 = 0) && decide (0x1900 ≤ c.ringBase))

/-- 0x38: a count of 0, 4, 8, 16, 32 or 64, and a ring that ends within exchange memory. -/
def ringCountOk (c : Settings) : Bool :=
  [0, 4, 8, 16, 32, 64].contains c.ringCount &&
    (decide (c.ringCount = 0) || decide (c.ringBase + 32 * c.ringCount ≤ 0x10000))

/-- The offset of the first word of slot `i`'s area that fails its check (R161); none when all pass.
Which word of a pair fails: DEDUCED, unsafe (notes/assumptions/16.md). -/
def State.firstBadWord (s : State) (i : Slot) : Option Nat :=
  let c := s.settingsOf i
  if !flagsWordOk (s.setting i 0x00) then some 0x00
  else if !levelsWordOk c then some 0x04
  else if !thresholdsOk c then some 0x24
  else if !imageBaseOk c then some 0x2C
  else if !imageLengthOk c then some 0x30
  else if !ringBaseOk c then some 0x34
  else if !ringCountOk c then some 0x38
  else none

/-- The first slot of a list whose area fails, with the offset of the failing word (R161). -/
def State.firstBadArea (s : State) : List Slot → Option (Slot × Nat)
  | [] => none
  | i :: r =>
    match s.firstBadWord i with
    | some k => some (i, k)
    | none => s.firstBadArea r

/-! ### The latch as it will stand -/

/-- The settings of slot `i` after a latch of the group led by `l`: the area's for its members, else the
working ones. -/
def State.settingsAfter (s : State) (l i : Slot) : Settings :=
  if s.leaderOf i = l then s.settingsOf i else (s.slot i).settings

/-- The join flags after the latch. -/
def State.joinAfter (s : State) (l : Slot) (n : Nat) : Bool := (s.settingsAfter l (Fin.ofNat 8 n)).join

/-- The group of slot `i` after the latch. -/
def State.groupAfter (s : State) (l i : Slot) : List Slot :=
  membersUnder (s.joinAfter l) (leaderUnder (s.joinAfter l) i)

/-- The group of slot `i` as it stands. -/
def State.groupNow (s : State) (i : Slot) : List Slot := s.members (s.leaderOf i)

/-- The leaders after the latch. -/
def State.leadersAfter (s : State) (l : Slot) : List Slot :=
  allSlots.filter fun i => leaderUnder (s.joinAfter l) i == i

/-- The sum of the allotments of the group that `i` leads after the latch (R104 rule 2). -/
def State.allotmentAfter (s : State) (l i : Slot) : Nat :=
  ((s.groupAfter l i).map fun m => (s.settingsAfter l m).allotment).sum

/-- The leaders after the latch whose groups are reformed: those that hold a slot whose group changes
(R105). -/
def State.reformed (s : State) (l : Slot) : List Slot :=
  (s.leadersAfter l).filter fun i => (s.groupAfter l i).any fun m => s.groupNow m != s.groupAfter l i

/-- The slots among the members of `l` whose join flag the latch changes (R104 rule 3). -/
def State.joinChanges (s : State) (l : Slot) : List Slot :=
  (s.members l).filter fun m => (s.settingsOf m).join != (s.slot m).settings.join

/-- Whether a group may take part in a join change (R104 rule 4). -/
def Sequencer.allowsJoinChange (q : Sequencer) : Bool :=
  q.flight == .none &&
    (q.state == .vacant || q.state == .unpowered || q.state == .isolated || q.state == .failed)

/-- The slots concerned by the join changes: k and k + 1 for each (R104 rule 3). -/
def State.concerned (s : State) (l : Slot) : List Slot :=
  (s.joinChanges l).flatMap fun k => if k.val < 7 then [k, Fin.ofNat 8 (k.val + 1)] else [k]

/-- Whether the latch of `l`'s group is refused with LOCKED (R104 rule 5). -/
def State.joinLocked (s : State) (l : Slot) : Bool :=
  (s.reformed l).any fun i =>
    ((s.groupAfter l i).any fun m => (s.slot m).lines.rail) &&
      ((s.groupAfter l i).any fun m => (s.settingsAfter l m).lock)

/-- The refusal of a CONFIGURE whose areas are read (R161, R104): its result and detail word; none when it
is accepted. Where several groups exceed the budget total, the one with the lowest-numbered leader is named:
DESIGN CHOICE, unsafe (notes/assumptions/33.md). -/
def State.configureRefusal (s : State) (l : Slot) : Option (Result × Word) :=
  match s.firstBadArea (s.members l) with
  | some (i, k) => some (.badSetting, packHalves k i.val)
  | none =>
    if s.joinAfter l 7 then some (.badSetting, packHalves 0x00 7)
    else
      match (s.leadersAfter l).find? fun i => decide (s.arb.total < s.allotmentAfter l i) with
      | some i => some (.badSetting, packHalves 0x04 i.val)
      | none =>
        if (s.concerned l).any fun k => !(s.seqOf k).allowsJoinChange then some (.busy, 0)
        else if s.joinLocked l then some (.locked, 0)
        else none

/-! ### The latch (R162) -/

/-- The abort ring of a slot after a latch of new settings (R162): a new base or count starts it empty. -/
def latchRing (i : Slot) (c : Settings) (s : State) : State :=
  let w := (s.slot i).settings
  if w.ringBase = c.ringBase ∧ w.ringCount = c.ringCount then s
  else
    let p := s.abortConsume i
    (s.modRing i fun r => { r with produce := p, full := false }) |> putHalf (slotBase i + 0x70) p

/-- Latch slot `i`'s settings area into its working settings (R162). -/
def latchSlot (i : Slot) (s : State) : State :=
  let c := s.settingsOf i
  (latchRing i c s).modSlot i fun r => { r with settings := c }

/-! ### Reforming (R105) -/

/-- The longer of two discharge timers by what is left of them. -/
def laterTimer (now : Word) (x y : Timer) : Timer := if x.remaining now < y.remaining now then y else x

/-- The timer that stops last; none of an empty list. -/
def latestTimer (now : Word) : List Timer → Option Timer
  | [] => none
  | t :: r => some (r.foldl (laterTimer now) t)

/-- Cut a member's rail at a reform: its reset line is asserted and its rail switched off (R105 step 2). -/
def cutRail (i : Slot) (s : State) : State :=
  if (s.slot i).lines.rail then (s.modLines i fun x => { x with resetAsserted := true }) |> railOff i else s

/-- A sequencer record at a reform: its allowance is kept (R105 step 4). DEDUCED for the rest, unsafe
(notes/assumptions/27.md). -/
def Sequencer.reform (q : Sequencer) (present : Bool) : Sequencer :=
  { Sequencer.initial present with
    allowance := q.allowance
    startLevel := q.startLevel
    maxLevel := q.maxLevel }

/-- Reform the group that `i` leads now (R105). `before` is the state before the latch, from which the
timers of the former groups and the rails are read. -/
def reformGroup (before : State) (i : Slot) (s : State) : State :=
  let ms := s.members i
  let former := ms.filterMap fun m => (before.seqOf m).discharge
  let cut := ms.any fun m => (before.slot m).lines.rail
  let own := if cut then [s.startTimer (s.slot i).settings.dischargeDwell] else []
  let st := if s.groupPresent i then SeqState.unpowered else SeqState.vacant
  let t := s |> eachSlot ms cutRail |> driveLink i false
  let u := eachSlot ms (fun m v => v.modSeq m fun q => q.reform (v.slot m).lines.present) t
  (u.modSeq i fun q => { q with discharge := latestTimer s.timebase (former ++ own) })
  |> enterState i st .order

/-- An accepted CONFIGURE (R104, R105, R162): the areas are latched together, and the groups that the latch
changes are reformed. -/
def latchGroup (l : Slot) (s : State) : State :=
  eachSlot (s.reformed l) (reformGroup s) (eachSlot (s.members l) latchSlot s)

/-- Whether CONFIGURE is checked in the present state (R161). -/
def Sequencer.takesConfigure (q : Sequencer) : Bool :=
  q.state == .vacant || q.unpoweredAtRest || q.state == .isolated || q.state == .failed ||
    (q.state == .unpowered && q.flight == .autoRecover)

/-- CONFIGURE (R104, R161, R162). -/
def doConfigure (h : Bool) (l : Slot) (s : State) : State :=
  if (s.slot l).seq.takesConfigure then
    match s.configureRefusal l with
    | some (r, d) => endOrderWith h l .configure r d s
    | none => s |> latchGroup l |> endOrder h l .configure .ok
  else endOrder h l .configure .busy s

/-! ### SET_COMMON (R126) -/

/-- The common settings word (Table 9-7). -/
def State.commonWord (s : State) : Word := s.readWord 0

/-- Check 1 of R126. -/
def commonWordOk (w : Word) : Bool :=
  decide (1 ≤ field w 0 8) && decide (field w 8 8 ≤ 1) && decide (field w 16 8 ≤ 1) &&
    decide (1 ≤ field w 24 8) && decide (field w 24 8 ≤ 64)

/-- Check 2 of R126: no group's allotment sum is above the total. -/
def State.fitsGroups (s : State) (total : Nat) : Bool :=
  allSlots.all fun i => decide (s.groupAllotment (s.leaderOf i) ≤ total)

/-- The result of SET_COMMON by its three checks (R126). -/
def State.commonResult (s : State) : Result :=
  let w := s.commonWord
  if !commonWordOk w then .badSetting
  else if !s.fitsGroups (field w 0 8) then .badSetting
  else if field w 0 8 < s.arb.granted then .busy
  else .ok

/-- The latched common settings as their word (Table 9-7, 0x24). -/
def State.latchedCommon (s : State) : Word :=
  packBytes s.arb.total s.arb.mode.code s.engine.mode.code s.engine.burstLength

/-- Latch the four common settings and write them into the common record (R126). -/
def latchCommon (s : State) : State :=
  let w := s.commonWord
  let t := { s with
    arb := { s.arb with
      total := field w 0 8
      mode := if field w 8 8 = 0 then .arrival else .slotOrder }
    engine := { s.engine with
      mode := if field w 16 8 = 0 then .sequential else .rotate
      burstLength := field w 24 8 } }
  putWord 0x24 t.latchedCommon t

/-- Write the common outcome (0x20, R160). -/
def writeCommonOutcome (r : Result) (s : State) : State := putWord 0x20 (packHalves r.code Order.setCommon.code) s

/-- SET_COMMON (R126, R160): decided by its checks; when accepted, latched, and the grant wait list is
examined under the new mode and total. -/
def doSetCommon (s : State) : State :=
  let r := s.commonResult
  (if r = .ok then s |> latchCommon |> examineGrants else s)
  |> writeCommonOutcome r |> postOrderDone 15 Order.setCommon.code r 0

end Sys2Proof.Machine
end

