-- ==== Sys2Proof/Machine/Taking.lean ====
section
/-! DEFINITION. The taking of orders (R157 to R160): the pending attention bit, the order word and its
arguments, the tests of R159, and the commands of the order rows. -/

namespace Sys2Proof.Machine

/-! ### The record of an order -/

/-- The order word of a record (Tables 9-3, 9-7). -/
def State.orderWord (s : State) (r : RecordNo) : Word := s.readWord (recordBase r + orderOffset r)

/-- Argument word `n`, 1 to 3, of a record. -/
def State.orderArg (s : State) (r : RecordNo) (n : Nat) : Word := s.readWord (recordBase r + orderOffset r + 4 * n)

/-- Whether a record's pending bit may be taken now (R158). -/
def State.takes (s : State) (r : RecordNo) : Bool :=
  s.regs.ready && s.regs.run && s.regs.attention.getLsbD r.val

/-- Remove a record's bit from the pending attention set. -/
def clearAttention (r : RecordNo) (s : State) : State :=
  { s with regs := { s.regs with attention := s.regs.attention &&& ~~~(BitVec.twoPow 9 r.val) } }

/-- The order that a slot record's order word names; SET_COMMON counts as unknown there (R159 test 1). -/
def slotOrderOfWord (w : Word) : Option Order :=
  match orderOfWord w with
  | some .setCommon => none
  | o => o

/-- Whether the common record's order word names SET_COMMON (R159 test 1). -/
def namesSetCommon (w : Word) : Bool := decide (orderOfWord w = some .setCommon)

/-! ### The tests of R159 -/

/-- The orders that are taken at a member as well as at a leader (R106, R159 test 2). -/
def Order.atMember : Order → Bool
  | .locate => true
  | .listPending => true
  | .configure => false
  | .bringUp => false
  | .isolate => false
  | .resume => false
  | .recover => false
  | .powerDown => false
  | .cancel => false
  | .refill => false
  | .setCommon => false

/-- The orders that are taken while an order is in flight (R159 test 3). -/
def Order.duringFlight : Order → Bool
  | .cancel => true
  | .locate => true
  | .listPending => true
  | .refill => true
  | .configure => false
  | .bringUp => false
  | .isolate => false
  | .resume => false
  | .recover => false
  | .powerDown => false
  | .setCommon => false

/-- The order's own rule decides it (R159 test 4). -/
def runOrder (h : Bool) (i : Slot) (o : Order) (a1 a2 : Word) (s : State) : State :=
  match o with
  | .configure => doConfigure h i s
  | .bringUp => doBringUp h i s
  | .isolate => doIsolate h i s
  | .resume => doResume h i s
  | .recover => doRecover h i a1.toNat a2.toNat s
  | .powerDown => doPowerDown h i s
  | .cancel => doCancel h i s
  | .refill => doRefill h i a1.toNat s
  | .locate => doLocate h i a1.toNat s
  | .listPending => doListPending h i s
  | .setCommon => s

/-- A known order at a slot record: tests 2 and 3 of R159, then PENDING (R160) and the order's own rule. -/
def decideOrder (i : Slot) (o : Order) (a1 a2 : Word) (s : State) : State :=
  if s.leaderOf i ≠ i ∧ !o.atMember then endOrder true i o .notLeader s
  else if (s.seqOf i).flight.isOrder && !o.duringFlight then endOrder true i o .busy s
  else
    let h := s.hushed i
    runOrder h i o a1 a2 (if h then s else writeOutcome i .pending o s)

/-- BAD_ORDER (R159 test 1): reported by its notice alone, with the order word's low half as the code:
DEDUCED, unsafe (notes/assumptions/25.md). -/
def refuseUnknown (slot : Nat) (w : Word) (s : State) : State :=
  postOrderDone slot (w.toNat % 65536) .badOrder 0 s

/-- Decide the order word of a slot record (R159). -/
def decideSlot (i : Slot) (w a1 a2 : Word) (s : State) : State :=
  match slotOrderOfWord w with
  | none => refuseUnknown i.val w s
  | some o => decideOrder i o a1 a2 s

/-- Decide the order word of the common record (R159, R160). -/
def decideCommon (w : Word) (s : State) : State :=
  if namesSetCommon w then s |> writeCommonOutcome .pending |> doSetCommon else refuseUnknown 15 w s

/-- Decide an order that has been read (R159). -/
def decideRecord (r : RecordNo) (w a1 a2 : Word) (s : State) : State :=
  if h : r.val < 8 then decideSlot ⟨r.val, h⟩ w a1 a2 s else decideCommon w s

/-- Take the pending bit of a record (R158): an order word of NONE only removes the bit; any other is read
with its arguments, set to NONE and decided. -/
def takeRecord (r : RecordNo) (s : State) : State :=
  let w := s.orderWord r
  if w = 0 then clearAttention r s
  else
    s |> putWord (recordBase r + orderOffset r) 0 |> clearAttention r
      |> decideRecord r w (s.orderArg r 1) (s.orderArg r 2)

/-- Take the pending bit of a record whose order word passes a test; else nothing happens. -/
def takeWhen (r : RecordNo) (test : Word → Bool) (s : State) : State :=
  if s.takes r && test (s.orderWord r) then takeRecord r s else s

/-- Whether an order word has the code of an order. -/
def hasCode (o : Order) (w : Word) : Bool := decide (w.toNat = o.code)

/-- Whether an order word is one that a record does not know (R159 test 1). -/
def unknownAt (r : RecordNo) (w : Word) : Bool :=
  decide (w ≠ 0) && (if r.val < 8 then (slotOrderOfWord w).isNone else !namesSetCommon w)

/-! ### Commands -/

/-- ORDER_TAKING (R158): a pending bit is taken at its record while RUN is 1. -/
def execOrderTaking (r : RecordNo) (s : State) : Host.Outcome State Fault Refusal :=
  .next (takeWhen r (fun _ => true) s)

/-- ORDER_NONE (R158): the taking that finds the order word NONE. -/
def execOrderNone (r : RecordNo) (s : State) : Host.Outcome State Fault Refusal :=
  .next (takeWhen r (fun w => decide (w = 0)) s)

/-- UNKNOWN_ORDER (R159): the taking of an order word that the record does not know. -/
def execUnknownOrder (r : RecordNo) (s : State) : Host.Outcome State Fault Refusal :=
  .next (takeWhen r (unknownAt r) s)

/-- CONFIGURE (R161): the taking of a CONFIGURE at a slot record. -/
def execConfigure (i : Slot) (s : State) : Host.Outcome State Fault Refusal :=
  .next (takeWhen (slotRecord i) (hasCode .configure) s)

/-- BRING_UP (R74). -/
def execBringUp (i : Slot) (s : State) : Host.Outcome State Fault Refusal :=
  .next (takeWhen (slotRecord i) (hasCode .bringUp) s)

/-- ISOLATE (R75). -/
def execIsolate (i : Slot) (s : State) : Host.Outcome State Fault Refusal :=
  .next (takeWhen (slotRecord i) (hasCode .isolate) s)

/-- RESUME (R76). -/
def execResume (i : Slot) (s : State) : Host.Outcome State Fault Refusal :=
  .next (takeWhen (slotRecord i) (hasCode .resume) s)

/-- RECOVER (R77). -/
def execRecover (i : Slot) (s : State) : Host.Outcome State Fault Refusal :=
  .next (takeWhen (slotRecord i) (hasCode .recover) s)

/-- POWER_DOWN (R78). -/
def execPowerDown (i : Slot) (s : State) : Host.Outcome State Fault Refusal :=
  .next (takeWhen (slotRecord i) (hasCode .powerDown) s)

/-- CANCEL (R100). -/
def execCancel (i : Slot) (s : State) : Host.Outcome State Fault Refusal :=
  .next (takeWhen (slotRecord i) (hasCode .cancel) s)

/-- REFILL (R68). -/
def execRefill (i : Slot) (s : State) : Host.Outcome State Fault Refusal :=
  .next (takeWhen (slotRecord i) (hasCode .refill) s)

/-- LOCATE (R139). -/
def execLocate (i : Slot) (s : State) : Host.Outcome State Fault Refusal :=
  .next (takeWhen (slotRecord i) (hasCode .locate) s)

/-- LIST_PENDING (R48). -/
def execListPending (i : Slot) (s : State) : Host.Outcome State Fault Refusal :=
  .next (takeWhen (slotRecord i) (hasCode .listPending) s)

/-- SET_COMMON (R126): the taking of a SET_COMMON at the common record. -/
def execSetCommon (s : State) : Host.Outcome State Fault Refusal :=
  .next (takeWhen 8 (hasCode .setCommon) s)

end Sys2Proof.Machine
end

