-- ==== Sys2Proof/Machine/Resets.lean ====
section
/-! DEFINITION. The register window (Table 9-1, R155, R157, R165, R166), the host's stores to exchange
memory, the two resets (R170, R172), READY and AUTOSTART (R171). -/

namespace Sys2Proof.Machine

/-! ### Reads -/

/-- The eight registers (Table 9-1). -/
inductive Register where
  | ident
  | control
  | attention
  | cause
  | noticeMask
  | noticeProduce
  | noticeConsume
  | timebase
deriving DecidableEq, Repr

/-- The offset of a register in the window (Table 9-1). -/
def Register.offset : Register → Nat
  | .ident => 0x00
  | .control => 0x04
  | .attention => 0x08
  | .cause => 0x0C
  | .noticeMask => 0x10
  | .noticeProduce => 0x14
  | .noticeConsume => 0x18
  | .timebase => 0x1C

/-- IDENT: part code, revision, slot count 8, READY in bit 31 (Table 9-1). -/
def identWord (ready : Bool) : Word :=
  BitVec.ofNat 32 (0x1608 + 65536 * Config.revision.toNat + 16777216 * 8 + (if ready then 2147483648 else 0))

/-- CONTROL as it reads: RUN in bit 0, INT_ENABLE in bit 1, RESET 0 (R155). -/
def controlWord (r : HostRegs) : Word := BitVec.ofNat 32 ((if r.run then 1 else 0) + (if r.intEnable then 2 else 0))

/-- What a read of a register returns; before READY, IDENT and TIMEBASE alone answer (R170). -/
def State.readRegister (s : State) (r : Register) : Word :=
  match r with
  | .ident => identWord s.regs.ready
  | .timebase => s.timebase
  | .control => if s.regs.ready then controlWord s.regs else 0
  | .attention => if s.regs.ready then s.regs.attention.setWidth 32 else 0
  | .cause => if s.regs.ready then s.regs.cause.setWidth 32 else 0
  | .noticeMask => if s.regs.ready then s.regs.noticeMask.setWidth 32 else 0
  | .noticeProduce => if s.regs.ready then s.regs.produce.setWidth 32 else 0
  | .noticeConsume => if s.regs.ready then s.regs.consume.setWidth 32 else 0

/-! ### Writes -/

/-- A host write acts once READY is set; before it is ignored (R170). -/
def whenReady (f : State → State) (s : State) : State := if s.regs.ready then f s else s

/-- Change the registers. -/
def State.modRegs (s : State) (f : HostRegs → HostRegs) : State := { s with regs := f s.regs }

/-- The registers after a control reset (R172). -/
def HostRegs.controlReset (r : HostRegs) : HostRegs :=
  { r with
    run := false
    intEnable := false
    attention := 0
    cause := 0
    noticeMask := 0
    produce := 0
    consume := 0 }

/-- A control reset changes the registers and nothing else (R172). -/
def controlReset (s : State) : State := s.modRegs HostRegs.controlReset

/-- A write to CONTROL: RESET at 1 performs a control reset, else RUN and INT_ENABLE take their bits
(R155). Both rows come here: DEDUCED, unsafe (notes/assumptions/28.md). -/
def writeControl (v : Word) (s : State) : State :=
  if v.getLsbD 2 then controlReset s
  else s.modRegs fun r => { r with run := v.getLsbD 0, intEnable := v.getLsbD 1 }

/-- CONTROL_WRITE (R155). -/
def execControlWrite (v : Word) (s : State) : Host.Outcome State Fault Refusal := .next (whenReady (writeControl v) s)

/-- CONTROL_RESET (R172): the write of CONTROL with RESET at 1. -/
def execControlReset (v : Word) (s : State) : Host.Outcome State Fault Refusal := .next (whenReady (writeControl v) s)

/-- ATTENTION_WRITE (R157): bits 8:0 written as 1 join the pending set. -/
def execAttentionWrite (v : Word) (s : State) : Host.Outcome State Fault Refusal :=
  .next (whenReady (fun t => t.modRegs fun r => { r with attention := r.attention ||| v.setWidth 9 }) s)

/-- CAUSE_READ (R166): the value is returned and cleared. -/
def execCauseRead (s : State) : Host.Outcome State Fault Refusal :=
  .next (if s.regs.ready then
      s.modRegs fun r => { r with readData := some (s.readRegister .cause), cause := 0 }
    else s.modRegs fun r => { r with readData := some 0 })

/-- Whether a write of NOTICE_CONSUME is taken (R165): produce - c is at most 128. -/
def State.takesConsume (s : State) (c : Half) : Bool := decide ((s.regs.produce - c).toNat ≤ 128)

/-- NOTICE_CONSUME_WRITE (R165). -/
def execNoticeConsumeWrite (v : Word) (s : State) : Host.Outcome State Fault Refusal :=
  .next (whenReady (fun t =>
    if t.takesConsume (v.setWidth 16) then t.modRegs fun r => { r with consume := v.setWidth 16 } else t) s)

/-- A plain write (R155, chapter 9.2): NOTICE_MASK takes its bits 7:0, exchange memory the stored byte or
word, and the read-only registers ignore it. -/
def writeTarget (t : PlainTarget) (v : Word) (s : State) : State :=
  match t with
  | .ident => s
  | .cause => s
  | .noticeProduce => s
  | .timebase => s
  | .noticeMask => s.modRegs fun r => { r with noticeMask := v.setWidth 8 }
  | .exchangeByte a => s.storeByte a.toNat (v.setWidth 8)
  | .exchangeWord a => s.storeWord a.toNat v

/-- REGISTER_WRITE (R155). -/
def execRegisterWrite (t : PlainTarget) (v : Word) (s : State) : Host.Outcome State Fault Refusal :=
  .next (whenReady (writeTarget t v) s)

/-! ### Power-on reset and READY -/

/-- POWER_ON_RESET (R170, Table 10-1): every block takes its initial value, with the inputs at the given
levels. The commands that wait and the model's draw counter are not the part's and stay. -/
def execPowerOnReset (l : InputLevels) (s : State) : Host.Outcome State Fault Refusal :=
  .next { State.powerOn l with pending := s.pending, draws := s.draws }

/-- The fields that the part writes for a slot in the event that sets READY (R170). -/
def writeInitial (i : Slot) (s : State) : State :=
  s |> syncSlot i
    |> putWord (slotBase i + 0x74) (BitVec.ofNat 32 (s.slot i).gate.postedDiscarded)
    |> putWord (slotBase i + 0x78) (BitVec.ofNat 32 (s.slot i).gate.cardDiscarded)

/-- The AUTOSTART bring-up of a slot that is UNPOWERED at rest (R171). -/
def autostartSlot (i : Slot) (s : State) : State :=
  if (s.slot i).seq.unpoweredAtRest then s |> writeOutcome i .pending .bringUp |> startBringUp i else s

/-- READY is set (R170): the initial outcome fields and the latched common settings are written, and then
AUTOSTART begins (R171). -/
def setReady (s : State) : State :=
  let t := eachSlot allSlots writeInitial (s.modRegs fun r => { r with ready := true })
  let u := putWord 0x24 t.latchedCommon t
  if s.regs.autostart then eachSlot allSlots autostartSlot u else u

/-- READY (R170, R171): initialisation ends, once after each power-on reset. -/
def execReady (s : State) : Host.Outcome State Fault Refusal := .next (if s.regs.ready then s else setReady s)

end Sys2Proof.Machine
end

