-- ==== Sys2Proof/Machine/Timebase.lean ====
section
/-! DEFINITION. What the part does when no command waits: a kept request arrives, an event that is due is
taken, or the timebase rises by one microsecond (R169). -/

namespace Sys2Proof.Machine

/-! ### Events that are due -/

/-- The limit of the group's present state that has ended, as its command (R81, R88, R90, R116, R129). -/
def limitCommand (i : Slot) : SeqState → Option Instr
  | .draining => some (.drainLimitExpiry i)
  | .resetting => some (.resetHoldEnd i)
  | .training => some (.trainLimitExpiry i)
  | .probing => some (.probeLimitExpiry i)
  | .powering => some (.powerGoodLimitExpiry i)
  | .vacant => none
  | .unpowered => none
  | .awaitPower => none
  | .restoring => none
  | .online => none
  | .isolated => none
  | .failed => none

/-- A command where a test holds. -/
def dueIf (b : Bool) (c : Instr) : Option Instr := if b then some c else none

/-- Whether a decay tick of slot `i` is due. -/
def State.decayDue (s : State) (i : Slot) : Bool :=
  match (s.slot i).meter.decay with
  | some d => d.due s.timebase
  | none => false

/-- Whether the RETRY wait of slot `i`'s probe read has ended. -/
def State.retryDue (s : State) (i : Slot) : Bool :=
  match (s.slot i).probe with
  | some (.retryWait t) => t.due s.timebase
  | _ => false

/-- Whether the pause of slot `i`'s job has ended. -/
def State.pauseDue (s : State) (i : Slot) : Bool :=
  s.engine.paused.any fun p => p.job.slot == i && p.pause.due s.timebase

/-- The first event of slot `i` that is due: of its sequencer when it leads its group, then of its own
meter, lines, probe read and restore job. -/
def State.slotDue (s : State) (i : Slot) : Option Instr :=
  let q := (s.slot i).seq
  let n := (s.slot i).lines
  let leads := s.leaderOf i == i
  dueIf (leads && q.state == .draining && s.groupEmpty i) (.drainEmpty i)
  <|> (if leads && dueNow q.limit s.timebase then limitCommand i q.state else none)
  <|> dueIf (leads && dueNow q.discharge s.timebase) (.dischargeTimerStop i)
  <|> dueIf (s.stateOf i == .powering && dueNow n.dwell s.timebase) (.stabilityDwellEnd i)
  <|> dueIf (s.retryDue i) (.retryWaitEnd i)
  <|> dueIf (s.pauseDue i) (.pauseEnd i)
  <|> dueIf (s.decayDue i) (.decayTick i)
  <|> dueIf (n.indicator.toggles s.timebase) (.indicatorBlinkToggle i)

/-- The expiry at a position, as its command. -/
def State.expiryCommand (s : State) (p : Nat) : Option Instr :=
  match s.entryAt p with
  | some e =>
    let k : Position := Fin.ofNat 96 p
    some (if e.origin = .fabric then .fabricEntryExpiry k else .probeRestoreEntryExpiry k)
  | none => none

/-- The Expiry Scanner's next event: the sweep that begins at a multiple of 16, or its next expiry (R42). -/
def State.scanDue (s : State) : Option Instr :=
  if s.prt.sweep.isNone && decide (s.timebase.toNat % 16 = 0) then some .expirySweep
  else
    match s.nextExpired with
    | some p => s.expiryCommand p
    | none => none

/-- The lowest record whose pending attention bit may be taken (R158). -/
def State.takingDue (s : State) : Option Instr :=
  (([0, 1, 2, 3, 4, 5, 6, 7, 8] : List RecordNo).find? fun r => s.takes r).map Instr.orderTaking

/-- The event that the part takes next of its own, among those due at the present count; none when time
goes on. Events that come together may be taken in either order; this order is the model's:
DESIGN CHOICE, unsafe (notes/assumptions/2.md). -/
def State.dueCommand (s : State) : Option Instr :=
  s.takingDue
  <|> s.scanDue
  <|> dueIf s.poolReady .poolHeadServed
  <|> dueIf s.grantReady .grant
  <|> allSlots.findSome? s.slotDue

/-! ### Time -/

/-- The first gate that holds no request and has one kept back in its host-side port (R5, R8, R9). -/
def State.keptArrival (s : State) : Option Slot :=
  allSlots.find? fun i => (s.slot i).gate.held.isNone && !(s.slot i).gate.kept.isEmpty

/-- One microsecond passes (R169); a sweep of the count that passes is over. -/
def tick (s : State) : State :=
  { s with timebase := s.timebase + 1, prt := { s.prt with sweep := none } }

end Sys2Proof.Machine
end

