-- ==== Sys2Proof/Machine/Dispatch.lean ====
section
/-! DEFINITION. The dispatch: one arm for each command, in the order of spec/opcode_table.json. -/

namespace Sys2Proof.Machine

/-- What a command does to everything but the queue of waiting commands. -/
def exec (i : Instr) (s : State) : Host.Outcome State Fault Refusal :=
  match i with
  | .hostNonPostedRequest slot req => Sys2Proof.Machine.execHostNonPostedRequest slot req s
  | .hostPostedWrite slot write => Sys2Proof.Machine.execHostPostedWrite slot write s
  | .cardCompletion slot completion => Sys2Proof.Machine.execCardCompletion slot completion s
  | .cardOriginatedRequest slot req => Sys2Proof.Machine.execCardOriginatedRequest slot req s
  | .hostCompletionTowardCard slot completion => Sys2Proof.Machine.execHostCompletionTowardCard slot completion s
  | .poolHeadServed => Sys2Proof.Machine.execPoolHeadServed s
  | .expirySweep => Sys2Proof.Machine.execExpirySweep s
  | .fabricEntryExpiry position => Sys2Proof.Machine.execFabricEntryExpiry position s
  | .probeRestoreEntryExpiry position => Sys2Proof.Machine.execProbeRestoreEntryExpiry position s
  | .decayTick slot => Sys2Proof.Machine.execDecayTick slot s
  | .drainEmpty slot => Sys2Proof.Machine.execDrainEmpty slot s
  | .drainLimitExpiry slot => Sys2Proof.Machine.execDrainLimitExpiry slot s
  | .resetHoldEnd slot => Sys2Proof.Machine.execResetHoldEnd slot s
  | .trainLimitExpiry slot => Sys2Proof.Machine.execTrainLimitExpiry slot s
  | .retryWaitEnd slot => Sys2Proof.Machine.execRetryWaitEnd slot s
  | .probeLimitExpiry slot => Sys2Proof.Machine.execProbeLimitExpiry slot s
  | .dischargeTimerStop slot => Sys2Proof.Machine.execDischargeTimerStop slot s
  | .grant => Sys2Proof.Machine.execGrant s
  | .powerGoodRise slot => Sys2Proof.Machine.execPowerGoodRise slot s
  | .powerGoodFall slot => Sys2Proof.Machine.execPowerGoodFall slot s
  | .powerGoodLimitExpiry slot => Sys2Proof.Machine.execPowerGoodLimitExpiry slot s
  | .stabilityDwellEnd slot => Sys2Proof.Machine.execStabilityDwellEnd slot s
  | .linkUp slot => Sys2Proof.Machine.execLinkUp slot s
  | .linkDown slot => Sys2Proof.Machine.execLinkDown slot s
  | .presenceLoss slot => Sys2Proof.Machine.execPresenceLoss slot s
  | .presenceGain slot => Sys2Proof.Machine.execPresenceGain slot s
  | .alertEdge slot level => Sys2Proof.Machine.execAlertEdge slot level s
  | .indicatorBlinkToggle slot => Sys2Proof.Machine.execIndicatorBlinkToggle slot s
  | .pauseEnd slot => Sys2Proof.Machine.execPauseEnd slot s
  | .orderTaking record => Sys2Proof.Machine.execOrderTaking record s
  | .orderNone record => Sys2Proof.Machine.execOrderNone record s
  | .unknownOrder record => Sys2Proof.Machine.execUnknownOrder record s
  | .configure slot => Sys2Proof.Machine.execConfigure slot s
  | .bringUp slot => Sys2Proof.Machine.execBringUp slot s
  | .isolate slot => Sys2Proof.Machine.execIsolate slot s
  | .resume slot => Sys2Proof.Machine.execResume slot s
  | .recover slot => Sys2Proof.Machine.execRecover slot s
  | .powerDown slot => Sys2Proof.Machine.execPowerDown slot s
  | .cancel slot => Sys2Proof.Machine.execCancel slot s
  | .refill slot => Sys2Proof.Machine.execRefill slot s
  | .locate slot => Sys2Proof.Machine.execLocate slot s
  | .listPending slot => Sys2Proof.Machine.execListPending slot s
  | .setCommon => Sys2Proof.Machine.execSetCommon s
  | .controlWrite value => Sys2Proof.Machine.execControlWrite value s
  | .controlReset value => Sys2Proof.Machine.execControlReset value s
  | .attentionWrite value => Sys2Proof.Machine.execAttentionWrite value s
  | .causeRead => Sys2Proof.Machine.execCauseRead s
  | .noticeConsumeWrite value => Sys2Proof.Machine.execNoticeConsumeWrite value s
  | .registerWrite target value => Sys2Proof.Machine.execRegisterWrite target value s
  | .powerOnReset inputs => Sys2Proof.Machine.execPowerOnReset inputs s
  | .ready => Sys2Proof.Machine.execReady s

end Sys2Proof.Machine
end

