-- ==== Sys2Proof/Machine/Step.lean ====
section
/-! DEFINITION. One step: the command at the front of the queue, or, when none waits, what the part does of
its own (notes/assumptions/2.md). -/

namespace Sys2Proof.Machine

/-- The part on an empty queue: a kept request arrives, an event that is due is taken, or one microsecond
passes. -/
def idle (s : State) : Host.Outcome State Fault Refusal :=
  match s.keptArrival with
  | some i => .next (acceptKept i s)
  | none =>
    match s.dueCommand with
    | some c => exec c s
    | none => .next (tick s)

/-- One step of the machine: the command at the front of the queue is run on the state with the queue's
rest. -/
def step (s : State) : Host.Outcome State Fault Refusal :=
  match s.pending with
  | c :: rest => exec c { s with pending := rest }
  | [] => idle s

/-- The state with the command that a word spells put at the front of its queue; unchanged where the word
spells none. -/
def State.withFetchWord (s : State) (nbits w : Nat) : State :=
  match decodeTableWord nbits w with
  | some c => { s with pending := c :: s.pending }
  | none => s

end Sys2Proof.Machine
end

