-- ==== Sys2Proof/Safety.lean ====
section
/-! DEFINITION. The terms that the statements use: the bounds that the spec promises of every state, and
what a step may leave unchanged or report. -/

namespace Sys2Proof.Machine

/-! ### Bounds -/

/-- The bounds that the spec gives: exchange memory in its canonical form; at most 128 notices wait (R163);
at most 96 live entries (R25) and 32 retired tags (R39); grants within the budget total (R123); and for
each slot a score of at most 4095 (R54), an allowance of at most 15 (R68), discard counts of 32 bits (R21),
six event counts (R58) and a count of lost records (R168) of 16 bits. -/
structure State.Bounded (s : State) : Prop where
  memory : Memory.wf s.mem = true
  notices : (s.regs.produce - s.regs.consume).toNat ≤ 128
  entries : s.prt.entries.length ≤ 96
  retired : s.prt.retired.length ≤ 32
  granted : s.arb.granted ≤ s.arb.total
  score : ∀ i, (s.slot i).meter.score ≤ 4095
  allowance : ∀ i, (s.slot i).seq.allowance ≤ 15
  posted : ∀ i, (s.slot i).gate.postedDiscarded ≤ 4294967295
  cards : ∀ i, (s.slot i).gate.cardDiscarded ≤ 4294967295
  lost : ∀ i, (s.slot i).ring.notWritten ≤ 65535
  events : ∀ i k, (s.slot i).meter.counts.get k ≤ 65535

/-- What the spec promises of the keys of the table: live entries at rising positions (R22); no two live FABRIC
entries with one key (R37); no retired tag twice, and none that is the key of a live FABRIC entry (R39); and
the key of a held request neither live nor retired (R37, R40). -/
structure State.KeysApart (s : State) : Prop where
  rising : s.prt.entries.Pairwise fun x y => x.1 < y.1
  live : s.prt.entries.Pairwise fun x y => x.2.origin = .fabric → y.2.origin = .fabric → x.2.key ≠ y.2.key
  retired : s.prt.retired.Nodup
  apart : ∀ x ∈ s.prt.entries, x.2.origin = .fabric → x.2.key ∉ s.prt.retired
  held : ∀ i h, (s.slot i).gate.held = some h →
    (⟨i, h.req.requester, h.req.tag⟩ : RetiredTag) ∉ s.prt.retired ∧
    ∀ x ∈ s.prt.entries, x.2.origin = .fabric → x.2.key ≠ ⟨i, h.req.requester, h.req.tag⟩

/-- An entry placed into a list of entries (R22): its position is the lowest free one, the entries afterwards are
the old ones and the new one, and their positions rise. -/
def PlacedLowest (l : List (Nat × Entry)) (e : Entry) : Prop :=
  let p := lowestFree 0 l
  (∀ x ∈ l, x.1 ≠ p) ∧ (∀ q, q < p → ∃ x ∈ l, x.1 = q) ∧
  (∀ x, x ∈ placeEntry p e l ↔ x = (p, e) ∨ x ∈ l) ∧ (placeEntry p e l).Pairwise fun x y => x.1 < y.1

/-- The limit after which an entry's kind expires, in the working settings of its slot (R42). -/
def expiryLimit (c : Settings) : NonPosted → Nat
  | .memoryRead _ => c.dataLimit.micros
  | .configRead _ => c.configLimit.micros
  | .configWrite _ => c.configLimit.micros

/-! ### What stays -/

/-- The memory reads the same outside the given areas, each a first address and a length. -/
def sameMemory (areas : List (Nat × Nat)) (s t : State) : Prop :=
  ∀ a, a < 65536 → (∀ r ∈ areas, a < r.1 ∨ r.1 + r.2 ≤ a) → t.readByte a = s.readByte a

/-- Every slot's record but those of the listed slots is the same. -/
def sameSlots (changed : List Slot) (s t : State) : Prop := ∀ j, j ∉ changed → t.slot j = s.slot j

/-- The waiting commands, the timebase and the model's draw counter are the same. -/
def sameClock (s t : State) : Prop := t.pending = s.pending ∧ t.timebase = s.timebase ∧ t.draws = s.draws

/-- The Pending Request Table, the Arbiter and the Restore Engine are the same. -/
def sameBlocks (s t : State) : Prop := t.prt = s.prt ∧ t.arb = s.arb ∧ t.engine = s.engine

/-- No slot has sent anything to the host or to its card, and no abort ring has moved. -/
def sameTraffic (s t : State) : Prop :=
  ∀ j, (t.slot j).hostOut = (s.slot j).hostOut ∧ (t.slot j).cardOut = (s.slot j).cardOut ∧
    (t.slot j).ring = (s.slot j).ring ∧ (t.slot j).gate = (s.slot j).gate

/-- Every slot's working settings are the same. -/
def sameSettings (s t : State) : Prop := ∀ j, (t.slot j).settings = (s.slot j).settings

/-- Every sequencer record but those of the listed slots is the same. -/
def sameSequencers (changed : List Slot) (s t : State) : Prop := ∀ j, j ∉ changed → (t.slot j).seq = (s.slot j).seq

/-! ### Notices (R163, R166) -/

/-- The area of the ring position that the next notice takes. -/
def noticeArea (s : State) : Nat × Nat := (noticeAddress s.regs.produce, 16)

/-- The registers after one notice of a kind (R163, R166): with room the produce index rises and an unmasked
kind sets NOTICE; without room NOTICE_OVERFLOW is set; an interrupt message goes out when CAUSE leaves 0
while INT_ENABLE is 1. -/
def regsAfterNotice (k : NoticeKind) (r : HostRegs) : HostRegs :=
  let room := decide ((r.produce - r.consume).toNat < 128)
  let flag : BitVec 2 := if room then (if r.noticeMask.getLsbD (k.code - 1) then 1 else 0) else 2
  { r with
    produce := if room then r.produce + 1 else r.produce
    cause := r.cause ||| flag
    interrupts :=
      if r.cause = 0 ∧ flag ≠ 0 ∧ r.intEnable = true then r.interrupts + 1 else r.interrupts }

/-- With room, the ring position that `s` names holds the four words of a notice in `t` (chapter 9.2). -/
def noticeReads (s t : State) (word0 result detail : Word) : Prop :=
  noticesWaiting s < 128 →
    t.readWord (noticeAddress s.regs.produce) = word0 ∧
    t.readWord (noticeAddress s.regs.produce + 4) = result ∧
    t.readWord (noticeAddress s.regs.produce + 8) = s.timebase ∧
    t.readWord (noticeAddress s.regs.produce + 12) = detail

/-! ### Orders (R158 to R160) -/

/-- A slot record presents an order that may be taken now: READY and RUN are set, its attention bit is
pending, and its order word has the order's code. -/
def State.presents (s : State) (i : Slot) (o : Order) : Prop :=
  s.regs.ready = true ∧ s.regs.run = true ∧ s.regs.attention.getLsbD i.val = true ∧
    (s.readWord (slotBase i + 0x40)).toNat = o.code

/-- The registers with a record's attention bit removed. -/
def regsTaken (n : Nat) (r : HostRegs) : HostRegs := { r with attention := r.attention &&& ~~~(BitVec.twoPow 9 n) }

/-- Slot `i` leads its group and the group has no sequence in flight and no CANCEL that waits. -/
def State.restsAt (s : State) (i : Slot) : Prop :=
  s.leaderOf i = i ∧ (s.slot i).seq.flight = .none ∧ (s.slot i).seq.cancelPending = false

/-- Slot `i` leads its group and no order is in flight there, so that an order comes to its own rule (R159 tests 2
and 3). An automatic sequence may be in flight. -/
def State.admits (s : State) (i : Slot) : Prop := s.leaderOf i = i ∧ (s.slot i).seq.flight.isOrder = false

/-- An order of slot `i` has been taken and has ended with a result (R158, R160): attention bit, order word,
outcome result and code, and the ORDER_DONE notice. -/
def OrderEnded (i : Slot) (o : Order) (r : Result) (detail : Word) (s t : State) : Prop :=
  t.regs = regsAfterNotice .orderDone (regsTaken i.val s.regs) ∧
  t.readWord (slotBase i + 0x40) = 0 ∧
  t.readWord (slotBase i + 0x50) = packHalves r.code o.code ∧
  noticeReads s t (packBytes 1 i.val o.code 0) (BitVec.ofNat 32 r.code) detail

/-- The areas that an order which ends at once writes: its order word, its outcome result and one notice. -/
def orderAreas (i : Slot) (s : State) : List (Nat × Nat) :=
  [(slotBase i + 0x40, 4), (slotBase i + 0x50, 4), noticeArea s]

/-- No order of slot `i`'s group is in flight and no CANCEL waits at the slot, so that an order taken there
writes its own result (R160). -/
def State.quietAt (s : State) (i : Slot) : Bool :=
  !(s.slot (s.leaderOf i)).seq.flight.isOrder && !(decide (s.leaderOf i = i) && (s.slot i).seq.cancelPending)

/-- An order of slot `i` that may be taken beside one in flight has been taken and has ended: as `OrderEnded`, but
the outcome result is written only where the slot was quiet (R160). -/
def OrderAnswered (i : Slot) (o : Order) (r : Result) (detail : Word) (s t : State) : Prop :=
  t.regs = regsAfterNotice .orderDone (regsTaken i.val s.regs) ∧
  t.readWord (slotBase i + 0x40) = 0 ∧
  t.readWord (slotBase i + 0x50) =
    (if s.quietAt i then packHalves r.code o.code else s.readWord (slotBase i + 0x50)) ∧
  noticeReads s t (packBytes 1 i.val o.code 0) (BitVec.ofNat 32 r.code) detail

/-- An order of slot `i` has been taken and is in flight (R158, R160): attention bit, order word, and result
PENDING. -/
def OrderBegun (i : Slot) (o : Order) (s t : State) : Prop :=
  t.regs = regsTaken i.val s.regs ∧
  t.readWord (slotBase i + 0x40) = 0 ∧
  t.readWord (slotBase i + 0x50) = packHalves Result.pending.code o.code

/-- The areas that an order which begins a sequence writes: order word, outcome result, and the sequencer
fields of every member. -/
def sequenceAreas (i : Slot) (s : State) : List (Nat × Nat) :=
  (slotBase i + 0x40, 4) :: (slotBase i + 0x50, 4) :: (s.members i).map fun m => (slotBase m + 0x54, 16)

/-- The sequencer fields of the outcome areas of the members (Table 9-5, 0x054 to 0x063). -/
def memberAreas (l : Slot) (s : State) : List (Nat × Nat) := (s.members l).map fun m => (slotBase m + 0x54, 16)

/-! ### Changes of state (R72, R106) -/

/-- A member's record after its group has entered a state at count `now`: the probe state, risen mark and dwell
of the state before are over, a decay phase runs on in ONLINE and DRAINING only (R59), and the indicator shows
the state's pattern (R137, R138). -/
def SlotRec.enters (r : SlotRec) (st : SeqState) (now : Word) : SlotRec :=
  { r with
    probe := none
    meter := { r.meter with decay := if st = .online ∨ st = .draining then r.meter.decay else none }
    lines := { r.lines with
      risen := false, dwell := none, dwellEnded := false
      indicator := r.lines.indicator.select (patternFor st r.lines.locate) now } }

/-- A sequencer record after its group has entered a state with a cause at count `now` (R72): the limit, the
destination and the probe marks of the state before are over, and rail kept outlives FAILED only (R94). -/
def Sequencer.enters (q : Sequencer) (st : SeqState) (why : Cause) (now : Word) : Sequencer :=
  { q with
    state := st, cause := why, causeStamp := now
    destination := none, limit := none, probeLimitPassed := false, fixedOutcome := none
    railKept := q.railKept && st == .failed }

/-- Going from `s` to `t` the group led by `l` has entered a state: its leader's record holds `q`, every
member's record is that of the entry with its lines changed by `g`, and every other slot is the same. -/
def GroupEntered (l : Slot) (st : SeqState) (q : Sequencer) (g : Lines → Lines) (s t : State) : Prop :=
  (∀ m, s.leaderOf m = l →
    t.slot m = { (s.slot m).enters st s.timebase with
      lines := g ((s.slot m).enters st s.timebase).lines
      seq := if m = l then q else (s.slot m).seq }) ∧
  ∀ j, s.leaderOf j ≠ l → t.slot j = s.slot j

/-- The outcome areas of every member of the group led by `l` show its leader's record in `t` (R106): state,
level, attempts used, allowance, link-up and rail kept, cause and cause stamp. It is promised of a part whose
READY is set. That the fields are written together, with 0 in bits 31:18 of 0x058 and 31:16 of 0x05C: the model's choice
(assumption 19). -/
def GroupShown (l : Slot) (s t : State) : Prop :=
  s.regs.ready = true → Memory.wf s.mem = true → ∀ m, s.leaderOf m = l →
    t.readWord (slotBase m + 0x54) = statusWord (t.slot l).seq ∧
    t.readHalf (slotBase m + 0x5A) = flagsHalf (t.slot l).seq (t.slot m).lines ∧
    t.readWord (slotBase m + 0x5C) = packHalves (t.slot l).seq.cause.code 0 ∧
    t.readWord (slotBase m + 0x60) = (t.slot l).seq.causeStamp

/-- Lines with the rail off: the reference clock is gated with it (R119). -/
def Lines.cut (n : Lines) : Lines := { n with rail := false, clock := if n.rail then false else n.clock }

/-- A sequencer record after its group's rails have been switched off: with a rail on, the discharge timer
starts (R73). -/
def Sequencer.discharges (q : Sequencer) (railOn : Bool) (dwell : DurCode) (now : Word) : Sequencer :=
  { q with discharge := if railOn then some ⟨now, dwell.micros⟩ else q.discharge }

/-! ### Sequences (Table 4-4, R79, R83 to R87) -/

/-- The sequence that was in flight under the record `q` of the group led by `l` has ended with a result in going
from `s` to `t`, with no CANCEL that waits (R79, Table 4-4): an order has its result in the outcome area and
one ORDER_DONE, an automatic recovery one AUTO_RECOVERY_ENDED, an automatic isolation nothing further. -/
def SequenceReported (l : Slot) (r : Result) (q : Sequencer) (s t : State) : Prop :=
  match q.flight.order with
  | some o =>
    t.regs = regsAfterNotice .orderDone s.regs ∧
    (s.regs.ready = true → Memory.wf s.mem = true →
      t.readWord (slotBase l + 0x50) = packHalves r.code o.code ∧
      noticeReads s t (packBytes 1 l.val o.code 0) (BitVec.ofNat 32 r.code) (levelDetail (t.slot l).seq))
  | none =>
    if q.flight = .autoRecover then
      t.regs = regsAfterNotice .autoRecoveryEnded s.regs ∧
      (s.regs.ready = true → Memory.wf s.mem = true →
        noticeReads s t (packBytes 3 l.val (t.slot l).seq.cause.code 0) (BitVec.ofNat 32 r.code)
          (levelDetail (t.slot l).seq))
    else t.regs = s.regs

/-- The areas that the end of a sequence writes: result, one notice, and the members' sequencer fields. -/
def endAreas (l : Slot) (s : State) : List (Nat × Nat) :=
  (slotBase l + 0x50, 4) :: noticeArea s :: memberAreas l s

/-- The registers after the report of the sequence that a CANCEL has stopped (R100 step 1, R79): one ORDER_DONE of an
order, one AUTO_RECOVERY_ENDED of an automatic recovery, nothing of an automatic isolation. -/
def regsStopped (q : Sequencer) (r : HostRegs) : HostRegs :=
  if q.flight.isOrder then regsAfterNotice .orderDone r
  else if q.flight = .autoRecover then regsAfterNotice .autoRecoveryEnded r
  else r

/-- The CANCEL of the sequence in flight under the record `q` has ended in going from `s` to `t` (R100, R160): the
sequence ended CANCELLED, and then the CANCEL OK with an ORDER_DONE of its own. The result is the stopped order's, or
the OK of a CANCEL that stopped an automatic sequence, in place of the PENDING it wrote. -/
def CancelReported (l : Slot) (q : Sequencer) (s t : State) : Prop :=
  t.regs = regsAfterNotice .orderDone (regsStopped q s.regs) ∧
  (s.regs.ready = true → Memory.wf s.mem = true →
    t.readWord (slotBase l + 0x50) =
      (match q.flight.order with
      | some o => packHalves 11 o.code
      | none => packHalves 2 7) ∧
    (∀ o : Order, q.flight.order = some o →
      noticeReads s t (packBytes 1 l.val o.code 0) 11 (levelDetail (t.slot l).seq)) ∧
    (q.flight = .autoRecover →
      noticeReads s t (packBytes 3 l.val Cause.cancelled.code 0) 11 (levelDetail (t.slot l).seq)) ∧
    noticeReads { s with regs := regsStopped q s.regs } t (packBytes 1 l.val 7 0) 2 0)

/-- The areas that the end of a CANCEL writes: result, its notices, and the members' sequencer fields. -/
def cancelAreas (l : Slot) (q : Sequencer) (s : State) : List (Nat × Nat) :=
  noticeArea { s with regs := regsStopped q s.regs } :: endAreas l s

/-- A loss at member `i` of the group led by `l`, with the record `q`, has been reported in going from `s` to `t` (R97
steps 5 and 6, R98 steps 7 and 8): one notice of a kind with the state at the loss and the member in its detail
word, and after it, for an order in flight, its result and one ORDER_DONE. An automatic sequence ends without a
notice of its own. A CANCEL that waits ends OK behind these notices (R101), with the OK in place of the PENDING that
it wrote where it stopped an automatic sequence (R160). -/
def LossReported (k : NoticeKind) (why : Cause) (noted : Nat) (r : Result) (l i : Slot) (q : Sequencer) (s t : State) :
    Prop :=
  let lost := regsAfterNotice k s.regs
  let ended := if q.flight.isOrder then regsAfterNotice .orderDone lost else lost
  t.regs = (if q.cancelPending then regsAfterNotice .orderDone ended else ended) ∧
  (s.regs.ready = true → Memory.wf s.mem = true →
    noticeReads s t (packBytes k.code l.val why.code 0) (BitVec.ofNat 32 noted) (packHalves i.val q.state.code) ∧
    (∀ o : Order, q.flight.order = some o →
      t.readWord (slotBase l + 0x50) = packHalves r.code o.code ∧
      noticeReads { s with regs := lost } t (packBytes 1 l.val o.code 0) (BitVec.ofNat 32 r.code)
        (levelDetail (t.slot l).seq)) ∧
    (q.cancelPending = true →
      noticeReads { s with regs := ended } t (packBytes 1 l.val 7 0) 2 0 ∧
      (q.flight.isOrder = false → t.readWord (slotBase l + 0x50) = packHalves 2 7)))

/-- The record with which an attempt at a level begins: that level, and the state of the level's entry (R85 to
R87). Level 3 is that of a group that goes to UNPOWERED and waits there for its discharge. -/
def Sequencer.atAttempt (q : Sequencer) (level : Nat) (why : Cause) (c : Settings) (railOn : Bool) (now : Word) :
    Sequencer :=
  if level ≤ 2 then
    { ({ q with level := level }).enters .resetting why now with limit := some ⟨now, c.resetHold.micros⟩ }
  else (({ q with level := level }).discharges railOn c.dischargeDwell now).enters .unpowered why now

/-- The lines of a member at the begin of an attempt at a level (R85 to R87): level 1 releases the reset line and
disables the link, level 2 asserts the reset line and enables the link, level 3 asserts the reset line and has
the rail off. -/
def Lines.atAttempt (level : Nat) (railOn : Bool) (n : Lines) : Lines :=
  if level ≤ 1 then { n with resetAsserted := false, linkDisabled := true }
  else if level = 2 then { n with resetAsserted := true, linkDisabled := false }
  else if railOn then { n.cut with resetAsserted := true }
  else { n with resetAsserted := true }

/-- Going from `s` to `t` the group led by `l`, with the record `q`, has begun an attempt at a level (R85 to
R87). A level-3 attempt is one that waits for its discharge. The retired tags of every member are gone
(R41). -/
def AttemptBegun (l : Slot) (level : Nat) (why : Cause) (q : Sequencer) (s t : State) : Prop :=
  GroupEntered l (if level ≤ 2 then .resetting else .unpowered)
    (q.atAttempt level why (s.slot l).settings (s.groupRail l) s.timebase) (Lines.atAttempt level (s.groupRail l)) s t ∧
  t.prt = { s.prt with retired := s.prt.retired.filter fun k => decide (s.leaderOf k.slot ≠ l) }

/-- The attempt of the group led by `l`, with the record `q`, has failed with a kind in going from `s` to `t`
(R84), the group's rail being on: the level is repeated below the attempts per level, else it rises below the
max level, else the group is FAILED with its rail kept under the lock (R94). -/
def AttemptFailed (l : Slot) (kind : Cause) (q : Sequencer) (s t : State) : Prop :=
  let c := (s.slot l).settings
  let lock := s.groupLock l
  (q.attempts + 1 < c.attemptsPerLevel →
    AttemptBegun l (clampLevel lock q.level) kind { q with attempts := q.attempts + 1 } s t ∧ t.regs = s.regs) ∧
  (¬q.attempts + 1 < c.attemptsPerLevel → q.level < clampLevel lock q.maxLevel →
    AttemptBegun l (clampLevel lock (q.level + 1)) kind { q with attempts := 0 } s t ∧ t.regs = s.regs) ∧
  (¬q.attempts + 1 < c.attemptsPerLevel → ¬q.level < clampLevel lock q.maxLevel →
    GroupEntered l .failed
      { ((q.discharges (!lock) c.dischargeDwell s.timebase).enters .failed .ladderExhausted s.timebase) with
        attempts := q.attempts + 1, railKept := lock, flight := .none }
      (fun n => { (if lock then n else n.cut) with resetAsserted := true }) s t ∧
    SequenceReported l .ladderExhausted q s t ∧ t.prt = s.prt) ∧
  GroupShown l s t

/-- The lines of a member at the entry into POWERING (R115, R116): the rail is on, and a member whose power-good stands
present is risen, its clock enabled and its stability dwell started. -/
def Lines.poweredOn (c : Settings) (now : Word) (n : Lines) : Lines :=
  if n.powerGood then
    { n with rail := true, risen := true, clock := true, dwell := some ⟨now, c.stabilityDwell.micros⟩, dwellEnded := false }
  else { n with rail := true }

/-- The power-good limit at the entry into POWERING of the group led by `l`: none where every member's power-good stands
present (R115, R116). -/
def State.poweringLimit (s : State) (l : Slot) : Option Timer :=
  if (s.members l).all fun m => (s.slot m).lines.powerGood then none
  else some ⟨s.timebase, (s.slot l).settings.powerGoodLimit.micros⟩

/-- The attempt of a group in POWERING at level 3, led by `l` and holding a grant of `a` units, has failed with a kind in
going from `s` to `t`, with a rail on and nobody in the grant wait list (R116, R87, R84): rails off with the discharge
timer started, clocks gated, dwells over, reset lines asserted, grant returned. Without the lock and below the attempts
per level the level is repeated, the members' retired tags purged (R41); else the ladder is exhausted (R94), and
FAILED keeps level 3, also where the choice under the lock is level 2 with the rail off: the model's choice (assumption
13). The upper half of the word at 0x28 is written 0: the model's choice (assumption 19). -/
def PoweringFailed (l : Slot) (kind : Cause) (a : Nat) (s t : State) : Prop :=
  let q := (s.slot l).seq
  let c := (s.slot l).settings
  let again : Prop := s.groupLock l = false ∧ q.attempts + 1 < c.attemptsPerLevel
  let off : Sequencer := { (q.discharges true c.dischargeDwell s.timebase) with attempts := q.attempts + 1, grant := none }
  let cut (n : Lines) : Lines := { n.cut with resetAsserted := true }
  (again →
    GroupEntered l .unpowered (off.enters .unpowered kind s.timebase) cut s t ∧ t.regs = s.regs ∧
    t.prt = { s.prt with retired := s.prt.retired.filter fun k => decide (s.leaderOf k.slot ≠ l) }) ∧
  (¬again →
    GroupEntered l .failed
      { (off.enters .failed .ladderExhausted s.timebase) with railKept := false, flight := .none } cut s t ∧
    SequenceReported l .ladderExhausted q s t ∧ t.prt = s.prt) ∧
  t.arb = { s.arb with granted := s.arb.granted - a } ∧
  (s.regs.ready = true → Memory.wf s.mem = true → t.arb.granted ≠ s.arb.granted →
    t.readWord 0x28 = packBytes t.arb.granted 0 0 0) ∧
  GroupShown l s t ∧ sameMemory ((0x28, 4) :: endAreas l s) s t ∧ t.engine = s.engine ∧ sameClock s t

/-! ### PROBING (R89, R91, R94, R110) -/

/-- The live entry of member `m`'s identity read that goes out at count `now` (Table 2-2). -/
def identityEntry (m : Slot) (now : Word) : Entry := ⟨m, .probe, .configRead 0, 0xFFFF, 1022, 1, 4, now, now, []⟩

/-- The identity read as it leaves the slot port (R89). -/
def identityItem : PortItem := .request ⟨.configRead 0, 0xFFFF, 1022, 1, []⟩

/-- Going from `s` to `t` the group led by `l` has entered PROBING with the leader's record `q` and the members' lines
changed by `g`, and every member has claimed its read (R89, R110, R26), in slot order (the model's choice, assumption
11): with an empty pool wait list as many as the table has free positions have their entries and their reads sent, and
the others wait in the list. -/
def ProbingEntered (l : Slot) (q : Sequencer) (g : Lines → Lines) (s t : State) : Prop :=
  let n := if s.prt.pool = [] then 96 - s.prt.entries.length else 0
  let sent := (s.members l).take n
  (∀ m, s.leaderOf m = l →
    t.slot m = { (s.slot m).enters .probing s.timebase with
      lines := g ((s.slot m).enters .probing s.timebase).lines
      seq := if m = l then q else (s.slot m).seq
      probe := some (if m ∈ sent then .outstanding else .waitingEntry)
      cardOut := (s.slot m).cardOut ++ if m ∈ sent then [identityItem] else [] }) ∧
  (∀ j, s.leaderOf j ≠ l → t.slot j = s.slot j) ∧
  t.prt.entries =
    sent.foldl (fun x m => placeEntry (lowestFree 0 x) (identityEntry m s.timebase) x) s.prt.entries ∧
  t.prt.pool = s.prt.pool ++ ((s.members l).drop n).map Claimant.probe ∧ t.prt.retired = s.prt.retired

/-- Going from `s` to `t` an identity that differs from the expected one has sent the group led by `l`, with the record
`q`, to FAILED (R91, R94). -/
def MismatchFailed (l : Slot) (q : Sequencer) (s t : State) : Prop :=
  let kept := s.groupLock l && s.groupRail l
  GroupEntered l .failed
    { ((q.discharges (s.groupRail l && !s.groupLock l) (s.slot l).settings.dischargeDwell s.timebase).enters .failed
        .identityMismatch s.timebase) with
      railKept := kept, flight := .none }
    (fun n => { (if kept then n else n.cut) with resetAsserted := true }) s t ∧
  SequenceReported l .identityMismatch q s t ∧ GroupShown l s t ∧ t.prt = s.prt ∧ t.arb = s.arb ∧
  sameMemory (endAreas l s) s t

/-- Going from `s` to `t` the outcome `k` of the group led by `l`, with the record `q`, has been taken (R110): FAILED of
an identity mismatch, else the attempt failure of its kind (here with the group's rail on, as it is in PROBING). -/
def OutcomeTaken (l : Slot) (k : Cause) (q : Sequencer) (s t : State) : Prop :=
  if k = .identityMismatch then MismatchFailed l q s t
  else s.groupRail l = true → AttemptFailed l k q s t ∧ sameMemory (endAreas l s) s t ∧ t.arb = s.arb

/-- Going from `s` to `t` the outcome `k` of the group led by `l`, with the record `q`, has been fixed by member `i`,
while another member's read is outstanding (R110): RETRY waits and claims are given up. -/
def OutcomeFixed (l i : Slot) (k : Cause) (q : Sequencer) (s t : State) : Prop :=
  (t.slot l).seq = { q with fixedOutcome := some k } ∧
  (∀ m, s.leaderOf m = l →
    (t.slot m).probe =
      if m ≠ i ∧ ((s.slot m).probe = some .outstanding ∨ (s.slot m).probe = none) then (s.slot m).probe
      else some .answered) ∧
  (∀ j, (t.slot j).cardOut = (s.slot j).cardOut ∧ (t.slot j).lines = (s.slot j).lines) ∧
  sameSlots (s.members l) s t ∧ sameSequencers [l] s t ∧ t.prt = s.prt ∧ t.regs = s.regs ∧ t.mem = s.mem ∧
  t.arb = s.arb

/-- Going from `s` to `t` a read of member `i` has ended that is not judged, while another member's is outstanding
(R100, R110). -/
def ReadEnded (i : Slot) (s t : State) : Prop :=
  t.slot i = { s.slot i with probe := some .answered } ∧ sameSlots [i] s t ∧ t.prt = s.prt ∧ t.regs = s.regs ∧
  t.mem = s.mem ∧ t.arb = s.arb

/-- Going from `s` to `t` the CANCEL that waited under the record `q` of the group led by `l` has had its safe point, the
group being ISOLATED after it (R100, Table 4-6). -/
def CancelEnded (l : Slot) (q : Sequencer) (g : Lines → Lines) (s t : State) : Prop :=
  GroupEntered l .isolated { (q.enters .isolated .cancelled s.timebase) with flight := .none, cancelPending := false }
    g s t ∧
  CancelReported l q s t ∧ GroupShown l s t

/-! ### Fences (R4, R39, R45) -/

/-- The retired tag list after keys have been appended one by one (R39): a full list of 32 loses its oldest tag
first. -/
def retiredAfter (old keys : List RetiredTag) : List RetiredTag :=
  keys.foldl (fun l k => (if l.length < 32 then l else l.drop 1) ++ [k]) old

/-- The live FABRIC entries of slot `m`, as its fence ends them: each of them once, oldest issue stamp first
(R45). -/
def FenceOrdered (m : Slot) (ended : List (Nat × Entry)) (s : State) : Prop :=
  ended.Perm (s.prt.entries.filter fun x => x.2.origin == .fabric && x.2.slot == m) ∧
  ended.Pairwise fun x y => age s.timebase y.2.issue ≤ age s.timebase x.2.issue

/-- The stand-in for the held request of slot `m`, if its gate holds one: the answer to a request of its length times
4 bytes (R4, R5, Table 1-5). -/
def heldAnswer (m : Slot) (s : State) : List Completion :=
  (s.slot m).gate.held.toList.map fun h =>
    standInFor (s.slot m).settings.ones
      ⟨m, .fabric, h.req.kind, h.req.requester, h.req.tag, h.req.length, h.req.length * 4, h.arrival, h.arrival, []⟩

/-- Every member of the group led by `l` has been fenced in going from `s` to `t` (R4, R45, R107): no FABRIC entry of
the group is left and those of other slots stand; behind what a slot's port had sent, one stand-in went out for each
entry, oldest issue stamp first, and then the one of its held request, which is held no more; and the keys were
appended to the retired tags in the same order, the members in slot order (the model's choice, assumption 11). With
`purged` the group's retired tags have been removed since (R41). -/
def GroupFenced (l : Slot) (purged : Bool) (s t : State) : Prop :=
  t.prt.entries.filter (fun x => x.2.origin == .fabric) =
    s.prt.entries.filter (fun x => x.2.origin == .fabric && s.leaderOf x.2.slot != l) ∧
  (∀ m, s.leaderOf m = l → (t.slot m).gate = { (s.slot m).gate with held := none }) ∧
  ∃ ended : Slot → List (Nat × Entry),
    (∀ m, s.leaderOf m = l → FenceOrdered m (ended m) s ∧
      (t.slot m).hostOut = (s.slot m).hostOut ++
        ((ended m).map (fun x => PortItem.completion (standInFor (s.slot m).settings.ones x.2)) ++
          (heldAnswer m s).map PortItem.completion)) ∧
    t.prt.retired =
      (retiredAfter s.prt.retired ((s.members l).flatMap fun m => (ended m).map fun x => x.2.key)).filter
        (fun k => !(purged && s.leaderOf k.slot == l))

/-- Whoever waits in the pool wait list is the gate of a member of the group led by `l`. -/
def State.onlyGatesWait (s : State) (l : Slot) : Prop := ∀ c ∈ s.prt.pool, ∃ m, c = .gate m ∧ s.leaderOf m = l

/-- No member of the group led by `l` keeps an abort ring, so that a fence writes no record and posts no
ABORT_RING_FULL (R167). -/
def State.keepsNoRing (s : State) (l : Slot) : Prop := ∀ m, s.leaderOf m = l → (s.slot m).settings.ringCount = 0

/-- The whole notice ring (chapter 9.2). -/
def noticeRing : Nat × Nat := (0x1100, 2048)

/-- A level-3 attempt that begins now waits in UNPOWERED for its discharge: a rail is on, or the timer runs
(R73). -/
def State.waitsDischarge (s : State) (l : Slot) : Prop := s.groupRail l = true ∨ (s.slot l).seq.discharge ≠ none

/-- The drain of the group led by `l`, of which `s` holds the record and the lines, has ended in `t` at its destination
(R81, R82): ISOLATED or the ladder with the cause `why`, UNPOWERED by the power-off steps with the cause `off`. A
waiting CANCEL has its safe point there instead (Table 4-6). The group's rail is on. Reports are promised where no
member keeps an abort ring. The levels of the ladder: the model's choice (assumption 23). -/
def DrainEnded (l : Slot) (why off : Cause) (s t : State) : Prop :=
  let q := (s.slot l).seq
  let c := (s.slot l).settings
  let start := clampLevel (s.groupLock l) (if q.flight = .autoRecover then c.startLevel else q.startLevel)
  let max := clampLevel (s.groupLock l) (if q.flight = .autoRecover then c.maxLevel else q.maxLevel)
  let entered (st : SeqState) (x : Sequencer) (g : Lines → Lines) : Prop :=
    (t.slot l).seq = x ∧ ∀ m, s.leaderOf m = l → (t.slot m).lines = g ((s.slot m).enters st s.timebase).lines
  (q.cancelPending = true →
    entered .isolated { (q.enters .isolated .cancelled s.timebase) with flight := .none, cancelPending := false } id ∧
    (s.keepsNoRing l → CancelReported l q s t)) ∧
  (q.cancelPending = false → q.destination = some .isolated →
    entered .isolated { (q.enters .isolated why s.timebase) with flight := .none } id ∧
    (s.keepsNoRing l → SequenceReported l .ok q s t)) ∧
  (q.cancelPending = false → q.destination = some .powerOff →
    entered .unpowered
      { ((q.discharges true c.dischargeDwell s.timebase).enters .unpowered off s.timebase) with flight := .none }
      (fun n => { n.cut with resetAsserted := true }) ∧
    (s.keepsNoRing l → SequenceReported l .ok q s t)) ∧
  (q.cancelPending = false → q.destination = some .ladder →
    entered (if start ≤ 2 then .resetting else .unpowered)
      (({ q with startLevel := start, maxLevel := max, attempts := 0 }).atAttempt start why c true s.timebase)
      (Lines.atAttempt start true) ∧
    (s.keepsNoRing l → t.regs = s.regs))

/-- The gates of the group led by `l` come to DRAIN without an abort record and without a word to other claimants:
nobody else waits in the pool wait list, and a member that holds a request keeps no abort ring. -/
def State.drainsPlainly (s : State) (l : Slot) : Prop :=
  s.onlyGatesWait l ∧ ∀ m, s.leaderOf m = l → (s.slot m).settings.ringCount = 0 ∨ (s.slot m).gate.held = none

/-- Going from `s` to `u` the group led by `l` has entered DRAINING from the record `q`, with a destination and a cause
(R80, R5): the drain limit runs, every held request has been answered by stand-in FENCED, and the gates have left
the pool wait list; the live entries stay. -/
def DrainingEntered (l : Slot) (q : Sequencer) (d : Destination) (why : Cause) (s u : State) : Prop :=
  (∀ m, s.leaderOf m = l →
    u.slot m = { (s.slot m).enters .draining s.timebase with
      gate := { (s.slot m).gate with held := none }
      hostOut := (s.slot m).hostOut ++ (heldAnswer m s).map PortItem.completion
      seq := if m = l then
          { (q.enters .draining why s.timebase) with
            destination := some d, limit := some ⟨s.timebase, (s.slot l).settings.drainLimit.micros⟩ }
        else (s.slot m).seq }) ∧
  (∀ j, s.leaderOf j ≠ l → u.slot j = s.slot j) ∧ u.prt = { s.prt with pool := [] } ∧ GroupShown l s u

/-- The event that has brought the group led by `l` from `s` to DRAINING in `u` ends in `t` (R80): with a FABRIC entry of
the group live, there; with none, the drain ends in the same event, as DRAIN_EMPTY ends it (R81). -/
def DrainingBegun (i l : Slot) (s u t : State) : Prop :=
  ((∃ m, s.leaderOf m = l ∧ s.liveFabric m ≠ 0) → t = u) ∧
  ((∀ m, s.leaderOf m = l → s.liveFabric m = 0) →
    exec (.drainEmpty i) u = .next t ∧ (s.groupRail l = true → DrainEnded l .sequence .sequence u t))

/-- The command `c`, which ends a FABRIC entry of slot `i`, brings `s` to `u`, and that is all of it with the gate in
OPEN or a FABRIC entry of the group live; in DRAIN with none left the drain's end follows in the same event, as
DRAIN_EMPTY has it (R81). -/
def EntryEndFollowed (c : Instr) (i : Slot) (s u : State) : Prop :=
  exec c s = exec (.drainEmpty i) u ∧
  (s.gateState i = .opened ∨ (∃ m, s.leaderOf m = s.leaderOf i ∧ u.liveFabric m ≠ 0) → exec c s = .next u)

/-- The state with the working settings given for each slot, and so with the groups that their join flags form
(R102). -/
def State.underSettings (s : State) (c : Slot → Settings) : State :=
  eachSlot allSlots (fun m t => t.modSlot m fun r => { r with settings := c m }) s

/-- A change of settings from `s` to `u` reforms the group that `l` leads in `u`: it holds a slot whose group has changed
(R105). -/
def State.reforms (s u : State) (l : Slot) : Bool :=
  u.leaderOf l == l && (u.members l).any fun m => s.members (s.leaderOf m) != u.members l

/-- The row of an order at a slot record. -/
def orderRow (o : Order) (i : Slot) : Instr :=
  match o with
  | .configure => .configure i
  | .bringUp => .bringUp i
  | .isolate => .isolate i
  | .resume => .resume i
  | .recover => .recover i
  | .powerDown => .powerDown i
  | .cancel => .cancel i
  | .refill => .refill i
  | .locate => .locate i
  | .listPending => .listPending i
  | .setCommon => .setCommon

/-! ### Losses of power-good and presence (R97, R98, R135) -/

/-- The live entries that the group led by `l` has out itself, each by origin and slot, in the order in which a loss
frees them: the RESTORE entry of its active job, and the PROBE entries of its members. -/
def State.ownRequests (s : State) (l : Slot) : List (Origin × Slot) :=
  (match s.engine.phase, s.engine.queue with
    | .writeOut, j :: _ => if s.leaderOf j.slot = l then [(.restore, j.slot)] else []
    | _, _ => []) ++
  ((s.members l).filter fun m => (s.slot m).probe == some .outstanding).map fun m => (.probe, m)

/-- Whether a claim in the pool wait list is one that a loss at the group led by `l` withdraws: a probe claim of a
member, or the engine's claim for a write of the group (R30). -/
def State.ownClaim (s : State) (l : Slot) (c : Claimant) : Bool :=
  match c with
  | .gate _ => false
  | .probe m => s.leaderOf m == l
  | .restore =>
    match s.engine.phase, s.engine.queue with
    | .claimWait _, j :: _ => s.leaderOf j.slot == l
    | _, _ => false

/-- The table and its wait list without what the group led by `l` has in them itself (R30, R47). -/
def State.withoutOwn (s : State) (l : Slot) : State :=
  { s with prt := { s.prt with
    entries := (s.ownRequests l).foldl
      (fun es r => es.eraseP fun x => x.2.origin == r.1 && x.2.slot == r.2) s.prt.entries
    pool := s.prt.pool.filter fun c => !s.ownClaim l c } }

/-- The group led by `l` gives its requests up with no more than one examination of the pool wait list that serves: its
head cannot be served now, a probe claim of a member is one that waits, the group does not probe and restore at once,
and one entry is freed at most or nobody else waits. -/
def State.givesUpPlainly (s : State) (l : Slot) : Prop :=
  s.poolReady = false ∧
  (∀ m, s.leaderOf m = l → Claimant.probe m ∈ s.prt.pool → (s.slot m).probe = some .waitingEntry) ∧
  (s.engine.queue = [] ∨ ∀ m, s.leaderOf m = l → (s.slot m).probe = none) ∧
  ((s.ownRequests l).length ≤ 1 ∨ (s.withoutOwn l).prt.pool = [])

/-- Going from `s` to `t` the group led by `l` has given up its own requests (R47, R30): its live PROBE and RESTORE
entries have ended without a report and its claims have left the pool wait list, and the freed position has been
offered as POOL_HEAD_SERVED offers one. Every slot outside the group is as that leaves it. -/
def OwnGivenUp (l : Slot) (s t : State) : Prop :=
  ∃ v, exec .poolHeadServed { s.withoutOwn l with engine := t.engine } = .next v ∧
    t.prt.entries = v.prt.entries ∧ t.prt.pool = v.prt.pool ∧ ∀ j, s.leaderOf j ≠ l → t.slot j = v.slot j

/-- Going from `s` to `t` the group led by `l` has lost its power or card and is at rest in a state (R97 steps 2 to 4,
R98 steps 2, 4 and 6, R135): with a rail on, the rails are off, their clocks gated (R119) and the discharge timer
started with the leader's dwell (R73); the reset lines are asserted, rail kept is no, and no sequence and no CANCEL is
left; the probe states are dropped; and the jobs, queued and paused, are removed, their stop positions written (R152,
R153; here every queued job is one of the group). The record before is `q`, and `lost` is the change of the level at the
member that reported it. -/
def GroupLost (l i : Slot) (st : SeqState) (why : Cause) (lost : Lines → Lines) (q : Sequencer) (s t : State) : Prop :=
  let jobs := s.engine.queue ++ (s.engine.paused.map fun p => p.job).filter fun j => decide (s.leaderOf j.slot = l)
  (t.slot l).seq =
    { ((q.discharges (s.groupRail l) (s.slot l).settings.dischargeDwell s.timebase).enters st why s.timebase) with
      flight := .none, cancelPending := false } ∧
  (∀ m, s.leaderOf m = l →
    let x := (s.slot m).enters st s.timebase
    let off : Lines := { (if s.groupRail l then x.lines.cut else x.lines) with resetAsserted := true }
    (t.slot m).lines = (if m = i then lost off else off) ∧ (t.slot m).probe = none ∧ (t.slot m).meter = x.meter) ∧
  t.engine.queue = [] ∧ t.engine.paused = (s.engine.paused.filter fun p => decide (s.leaderOf p.job.slot ≠ l)) ∧
  (s.engine.queue ≠ [] → t.engine.phase = .idle) ∧
  t.engine.mode = s.engine.mode ∧ t.engine.burstLength = s.engine.burstLength ∧
  (s.regs.ready = true → Memory.wf s.mem = true → ∀ j ∈ jobs, (∀ k ∈ jobs, k.slot = j.slot → k.position = j.position) →
    t.readWord (slotBase j.slot + 0x80) = BitVec.ofNat 32 j.position) ∧
  sameSequencers [l] s t ∧ sameSettings s t

/-! ### Health events -/

/-- A counted event of a member hands no score trigger on: ISOLATE is off, disarmed, or not risen through
(R55). -/
def State.noTrigger (s : State) (i : Slot) (k : EventKind) : Prop :=
  let c := (s.slot i).settings
  let before := (s.slot i).meter.score
  c.isolate = 0 ∨ (s.slot i).meter.isolateArmed = false ∨ c.isolate ≤ before ∨
    min (before + c.weight k) 4095 < c.isolate

/-- Whether a counted event of a member rises through WARN (R56). -/
def State.warns (s : State) (i : Slot) (k : EventKind) : Bool :=
  let c := (s.slot i).settings
  let before := (s.slot i).meter.score
  decide (c.warn ≠ 0) && (s.slot i).meter.warnArmed && decide (before < c.warn) &&
    decide (c.warn ≤ min (before + c.weight k) 4095)

/-- Slot `i`'s meter has counted one event of a kind in going from `s` to `t` (R54, R56, R58). -/
def Counted (i : Slot) (k : EventKind) (s t : State) : Prop :=
  let m := (s.slot i).meter
  (t.slot i).meter.score = min (m.score + (s.slot i).settings.weight k) 4095 ∧
  (t.slot i).meter.counts = m.counts.add k ∧
  (t.slot i).meter.decay = m.decay

end Sys2Proof.Machine
end

