-- ==== Sys2Proof/Certificates/Slice0/Obligations.lean ====
section
/-! DEFINITION. The statements about the model, one `Obligations.<Name>` each, listed in OBLIGATIONS.json. -/

open Sys2Proof Sys2Proof.Machine

/-! ### The machine -/

/-- A step with commands waiting runs the one at the front on the state with the queue's rest. -/
def Obligations.StepRunsTheFrontCommand : Prop :=
  ∀ (c : Instr) (rest : List Instr) (s : State), s.pending = c :: rest →
    step s = exec c { s with pending := rest }

/-- The model's choice (assumptions 2 and 18) of what a step does with no command waiting: the request kept back
longest at the first gate that holds none and keeps one arrives, as HOST_NON_POSTED_REQUEST does at a gate that
keeps none; else the event that is due is taken as its command; else one microsecond passes (R169) and nothing
else changes. -/
def Obligations.EmptyQueueLetsTimePass : Prop :=
  ∀ s : State, s.pending = [] →
    (∀ (i : Slot) (r : HostRequest) (rest : List HostRequest),
      (s.slot i).gate.held = none → (s.slot i).gate.kept = r :: rest →
      (∀ j, j < i → (s.slot j).gate.held ≠ none ∨ (s.slot j).gate.kept = []) →
      step s = .next (hostArrives i r (s.modGate i fun g => { g with kept := rest })) ∧
      ∀ u : State, (u.slot i).gate.held = none → (u.slot i).gate.kept = [] →
        exec (.hostNonPostedRequest i r) u = .next (hostArrives i r u)) ∧
    ((∀ i, (s.slot i).gate.held ≠ none ∨ (s.slot i).gate.kept = []) →
      (∀ c : Instr, s.dueCommand = some c → step s = exec c s) ∧
      (s.dueCommand = none →
        step s = .next { s with timebase := s.timebase + 1, prt := { s.prt with sweep := none } }))

/-- A step never faults and never refuses: it answers a next state. That a command which is untimely, not due or not
presented answers next with the state unchanged is the model's choice (assumptions 2, 8 and 9). In that state no two
live FABRIC entries have come to share a key and no retired tag has come to stand twice or beside a live entry (R37,
R39); in a state whose keys stand apart, no slot's live FABRIC count rises above its quota (R25); and, with READY set, a
slot whose sequencer state has changed shows the count of that moment as its cause stamp (R72). -/
def Obligations.EveryStepAnswersNext : Prop :=
  ∀ s : State, ∃ t, step s = .next t ∧
    (s.KeysApart → t.KeysApart) ∧
    (s.KeysApart → ∀ i, t.liveFabric i ≤ max (s.liveFabric i) (s.slot i).settings.quota) ∧
    (s.regs.ready = true → ∀ i, t.stateOf i ≠ s.stateOf i → (t.seqOf i).causeStamp = t.timebase)

/-- The bounds of `State.Bounded` are kept by every step, whatever command runs: exchange memory in its canonical
form, the notices that wait, the live entries and retired tags, the granted sum, and for each slot the score, the
allowance, the discard counts, the six event counts and the count of lost records. -/
def Obligations.EveryStepKeepsTheBounds : Prop :=
  ∀ s t : State, s.Bounded → step s = .next t → t.Bounded

/-- The state after a power-on reset has the bounds of `State.Bounded` and its keys apart, whatever the input
levels. -/
def Obligations.ResetHasTheBounds : Prop :=
  State.reset.Bounded ∧ ∀ l : InputLevels, (State.powerOn l).Bounded ∧ (State.powerOn l).KeysApart

/-! ### Codes -/

/-- R1: the duration of a code is N times its step, N being C or 256 when C is 0; Table 3 gives the steps
and the range. -/
def Obligations.DurationCodeValues : Prop :=
  ∀ d : DurCode,
    d.micros = (if d.count = 0 then 256 else d.count.toNat) * 16 ^ (d.sel.toNat + 1) ∧
    16 ≤ d.micros ∧ d.micros ≤ 16777216

/-- R156: the kind of an item word, its count, offset or duration code, and the bits that are not read. -/
def Obligations.ItemWordFields : Prop :=
  (∀ w : Word,
    itemOfWord w =
      if w.extractLsb' 28 4 = 1 then
        some (.dataItem (if w.extractLsb' 0 8 = 0 then 256 else (w.extractLsb' 0 8).toNat))
      else if w.extractLsb' 28 4 = 2 then
        some (.repeatItem (if w.extractLsb' 0 8 = 0 then 256 else (w.extractLsb' 0 8).toNat))
      else if w.extractLsb' 28 4 = 3 then some (.seekItem (w.extractLsb' 0 10).toNat)
      else if w.extractLsb' 28 4 = 4 then some (.pauseItem ⟨w.extractLsb' 0 8, w.extractLsb' 8 2⟩)
      else if w.extractLsb' 28 4 = 15 then some .endItem
      else none) ∧
  (∀ w v : Word, (∀ k, k < 10 ∨ 28 ≤ k → w.getLsbD k = v.getLsbD k) → itemOfWord w = itemOfWord v)

/-! ### Notices -/

/-- R163 and R166: a notice with room is written at position produce mod 128 and advances the index; without
room it is dropped and NOTICE_OVERFLOW is set. Nothing else changes. -/
def Obligations.NoticeWrittenOrDropped : Prop :=
  ∀ (k : NoticeKind) (slot code result : Nat) (detail : Word) (s : State),
    Memory.wf s.mem = true → s.regs.ready = true →
    (postNotice k slot code result detail s).regs = regsAfterNotice k s.regs ∧
    noticeReads s (postNotice k slot code result detail s)
      (packBytes k.code slot code (code / 256)) (BitVec.ofNat 32 result) detail ∧
    sameMemory (if noticesWaiting s < 128 then [noticeArea s] else []) s
      (postNotice k slot code result detail s) ∧
    sameSlots [] s (postNotice k slot code result detail s) ∧
    sameBlocks s (postNotice k slot code result detail s) ∧
    sameClock s (postNotice k slot code result detail s)

/-! ### Slot Gates -/

/-- R7, R22, R40: a request in OPEN that is no duplicate, with quota, a free position and an empty pool wait
list, gets a FABRIC entry in the lowest-numbered free position and goes out of the slot port; a retired tag
with its key is removed. In a table whose positions rise, the entries afterwards are the old ones and the new one,
at rising positions, and every position below the one taken is occupied. -/
def Obligations.HostRequestForwarded : Prop :=
  (∀ (l : List (Nat × Entry)) (e : Entry), l.Pairwise (fun x y => x.1 < y.1) → PlacedLowest l e) ∧
  ∀ (i : Slot) (r : HostRequest) (s : State),
    s.gateState i = .opened → (s.slot i).gate.held = none → (s.slot i).gate.kept = [] →
    (∀ x ∈ s.prt.entries, ¬(x.2.origin = .fabric ∧ x.2.slot = i ∧ x.2.requester = r.requester ∧ x.2.tag = r.tag)) →
    s.liveFabric i < (s.slot i).settings.quota → s.prt.entries.length < 96 → s.prt.pool = [] →
    ∃ t, exec (.hostNonPostedRequest i r) s = .next t ∧
      t.prt.entries = placeEntry (lowestFree 0 s.prt.entries)
        ⟨i, .fabric, r.kind, r.requester, r.tag, r.length, r.length * 4, s.timebase, s.timebase, []⟩ s.prt.entries ∧
      t.prt.retired = s.prt.retired.filter (fun k => k != ⟨i, r.requester, r.tag⟩) ∧
      t.prt.pool = [] ∧
      t.slot i = { s.slot i with cardOut := (s.slot i).cardOut ++ [.request r] } ∧
      sameSlots [i] s t ∧ t.regs = s.regs ∧ t.mem = s.mem ∧ t.arb = s.arb ∧ t.engine = s.engine ∧ sameClock s t

/-- R8, R28: a request in OPEN that cannot have an entry at once becomes the held request and its gate joins
the pool wait list at the tail; while a request is held, the next one is kept back. -/
def Obligations.HostRequestHeldOrKept : Prop :=
  ∀ (i : Slot) (r : HostRequest) (s : State),
    ((s.slot i).gate.held ≠ none →
      exec (.hostNonPostedRequest i r) s =
        .next (s.modGate i fun g => { g with kept := g.kept ++ [r] })) ∧
    (s.gateState i = .opened → (s.slot i).gate.held = none → (s.slot i).gate.kept = [] →
      (∀ x ∈ s.prt.entries, ¬(x.2.origin = .fabric ∧ x.2.slot = i ∧ x.2.requester = r.requester ∧ x.2.tag = r.tag)) →
      ¬(s.liveFabric i < (s.slot i).settings.quota ∧ s.prt.entries.length < 96 ∧ s.prt.pool = []) →
      ∃ t, exec (.hostNonPostedRequest i r) s = .next t ∧
        t.prt.pool = s.prt.pool ++ [.gate i] ∧ t.prt.entries = s.prt.entries ∧
        t.prt.retired = s.prt.retired.filter (fun k => k != ⟨i, r.requester, r.tag⟩) ∧
        t.slot i = { s.slot i with gate := { (s.slot i).gate with held := some ⟨r, s.timebase⟩ } } ∧
        sameSlots [i] s t ∧ t.regs = s.regs ∧ t.mem = s.mem ∧ t.arb = s.arb ∧ t.engine = s.engine ∧ sameClock s t)

/-- R10, R7, R37, R17: outside OPEN a request is answered FENCED by stand-in, and a duplicate in OPEN
DUPLICATE_TAG, for its length times 4 bytes in the slot's answer style; no entry and no retired tag changes.
`handAbort` is the abort record of R19. -/
def Obligations.HostRequestStandIns : Prop :=
  ∀ (i : Slot) (r : HostRequest) (s : State), (s.slot i).gate.held = none → (s.slot i).gate.kept = [] →
    let answer : Completion :=
      if (s.slot i).settings.ones then
        ⟨r.requester, r.tag, .success, r.length * 4,
          match r.kind with
          | .configWrite _ => []
          | _ => List.replicate (r.length * 4) 0xFF⟩
      else ⟨r.requester, r.tag, .abort, r.length * 4, []⟩
    let asked : Entry :=
      ⟨i, .fabric, r.kind, r.requester, r.tag, r.length, r.length * 4, s.timebase, s.timebase, []⟩
    let sent := s.modSlot i fun x => { x with hostOut := x.hostOut ++ [.completion answer] }
    (s.gateState i ≠ .opened →
      exec (.hostNonPostedRequest i r) s = .next (handAbort i asked .fenced sent)) ∧
    (s.gateState i = .opened →
      (∃ x ∈ s.prt.entries, x.2.origin = .fabric ∧ x.2.slot = i ∧ x.2.requester = r.requester ∧ x.2.tag = r.tag) →
      exec (.hostNonPostedRequest i r) s = .next (handAbort i asked .duplicateTag sent))

/-- R167, Table 9-6: an abort record with room is written whole at base plus 32 times (produce mod count),
then the produce index rises and the ring-full mark is cleared; a ring of count 0 keeps no record. That the produce index
counts on from the part's own, whatever the host has stored in its field: the model's choice (assumption 17). -/
def Obligations.AbortRecordWritten : Prop :=
  ∀ (i : Slot) (e : Entry) (why : Reason) (s : State),
    ((s.slot i).settings.ringCount = 0 → handAbort i e why s = s) ∧
    (Memory.wf s.mem = true → s.regs.ready = true → 0 < (s.slot i).settings.ringCount →
      (s.slot i).settings.ringCount ≤ 64 → 0x1900 ≤ (s.slot i).settings.ringBase →
      (s.slot i).settings.ringBase + 32 * (s.slot i).settings.ringCount ≤ 0x10000 →
      ((s.slot i).ring.produce - s.abortConsume i).toNat < (s.slot i).settings.ringCount →
      let p := (s.slot i).ring.produce
      let a := (s.slot i).settings.ringBase + 32 * (p.toNat % (s.slot i).settings.ringCount)
      let t := handAbort i e why s
      t.readWord a = packBytes 1 (requestKindCode e.kind) why.code i.val ∧
      t.readWord (a + 4) = packHalves e.requester.toNat e.tag.toNat ∧
      t.readWord (a + 8) = (requestTarget e.kind).setWidth 32 ∧
      t.readWord (a + 12) = (requestTarget e.kind >>> 32).setWidth 32 ∧
      t.readWord (a + 16) = packHalves e.length e.owed ∧
      t.readWord (a + 20) = e.issue ∧ t.readWord (a + 24) = s.timebase ∧
      t.readWord (a + 28) = p.setWidth 32 ∧
      t.readHalf (slotBase i + 0x70) = p + 1 ∧
      t.slot i = { s.slot i with ring := { (s.slot i).ring with produce := p + 1, full := false } } ∧
      sameMemory [(a, 32), (slotBase i + 0x70, 2)] s t ∧
      sameSlots [i] s t ∧ t.regs = s.regs ∧ sameBlocks s t ∧ sameClock s t)

/-- R168: a record that finds no room in a ring of count above 0 is not written; the count of records not
written rises, stopping at 65,535, and is written to the outcome area; the stand-in is sent all the same; the
first loss of a run sets the mark and posts ABORT_RING_FULL, and a loss under the mark posts nothing. That the index and
the count are held in the part, whatever the host has stored in their fields: the model's choice (assumption 17). -/
def Obligations.AbortRecordLost : Prop :=
  ∀ (i : Slot) (e : Entry) (why : Reason) (s : State),
    Memory.wf s.mem = true → s.regs.ready = true → (s.slot i).settings.ringCount ≠ 0 →
    ¬((s.slot i).ring.produce - s.abortConsume i).toNat < (s.slot i).settings.ringCount →
    let n := min ((s.slot i).ring.notWritten + 1) 65535
    let t := standIn i e why s
    (t.slot i).ring = ⟨(s.slot i).ring.produce, n, true⟩ ∧
    t.readHalf (slotBase i + 0x72) = BitVec.ofNat 16 n ∧
    (t.slot i).hostOut =
      (s.slot i).hostOut ++ [.completion (standInFor (s.slot i).settings.ones e)] ∧
    ((s.slot i).ring.full = true →
      t.regs = s.regs ∧ sameMemory [(slotBase i + 0x72, 2)] s t) ∧
    ((s.slot i).ring.full = false →
      t.regs = regsAfterNotice .abortRingFull s.regs ∧
      noticeReads s t (packBytes 8 i.val why.code 0) 0 (BitVec.ofNat 32 n) ∧
      sameMemory [(slotBase i + 0x72, 2), noticeArea s] s t) ∧
    (t.slot i).cardOut = (s.slot i).cardOut ∧ (t.slot i).seq = (s.slot i).seq ∧
    (t.slot i).meter = (s.slot i).meter ∧ (t.slot i).gate = (s.slot i).gate ∧
    sameSlots [i] s t ∧ sameSettings s t ∧ sameBlocks s t ∧ sameClock s t

/-- R11: a host posted write or message goes out of the slot port in OPEN and is not tracked; in DRAIN, FENCED
and PRIVATE it is discarded and counted, with no answer, no health event and no abort record. The count is written
where it changed, so that one that has stopped leaves the field as it stands. -/
def Obligations.PostedWriteForwardedOrCounted : Prop :=
  ∀ (i : Slot) (w : PostedWrite) (s : State),
    (s.gateState i = .opened →
      exec (.hostPostedWrite i w) s =
        .next (s.modSlot i fun r => { r with cardOut := r.cardOut ++ [.posted w] })) ∧
    (s.gateState i ≠ .opened →
      ∃ t, exec (.hostPostedWrite i w) s = .next t ∧
        t.slot i = { s.slot i with gate := { (s.slot i).gate with
          postedDiscarded :=
            if (s.slot i).gate.postedDiscarded < 4294967295 then (s.slot i).gate.postedDiscarded + 1
            else 4294967295 } } ∧
        sameSlots [i] s t ∧ t.regs = s.regs ∧ sameBlocks s t ∧ sameClock s t ∧
        sameMemory [(slotBase i + 0x74, 4)] s t ∧
        ((s.slot i).gate.postedDiscarded = 4294967295 → t.mem = s.mem) ∧
        (s.regs.ready = true → Memory.wf s.mem = true → (s.slot i).gate.postedDiscarded ≠ 4294967295 →
          t.readWord (slotBase i + 0x74) = BitVec.ofNat 32 (t.slot i).gate.postedDiscarded))

/-- R15: a card's request goes to the host in OPEN; in DRAIN a write is discarded and a read answered
UNSUPPORTED toward the card; in FENCED and PRIVATE it is discarded; every one not forwarded is counted. The
count is written where it changed. -/
def Obligations.CardRequestHandled : Prop :=
  ∀ (i : Slot) (r : CardRequest) (s : State),
    (s.gateState i = .opened →
      exec (.cardOriginatedRequest i r) s =
        .next (s.modSlot i fun x => { x with hostOut := x.hostOut ++ [.cardRequest r] })) ∧
    (s.gateState i ≠ .opened →
      ∃ t, exec (.cardOriginatedRequest i r) s = .next t ∧
        t.slot i = { s.slot i with
          cardOut :=
            if s.gateState i = .drain ∧ r.form = .memoryRead then
              (s.slot i).cardOut ++ [.completion ⟨r.requester, r.tag, .unsupported, r.length * 4, []⟩]
            else (s.slot i).cardOut
          gate := { (s.slot i).gate with
            cardDiscarded :=
              if (s.slot i).gate.cardDiscarded < 4294967295 then (s.slot i).gate.cardDiscarded + 1
              else 4294967295 } } ∧
        sameSlots [i] s t ∧ t.regs = s.regs ∧ sameBlocks s t ∧ sameClock s t ∧
        sameMemory [(slotBase i + 0x78, 4)] s t ∧
        ((s.slot i).gate.cardDiscarded = 4294967295 → t.mem = s.mem) ∧
        (s.regs.ready = true → Memory.wf s.mem = true → (s.slot i).gate.cardDiscarded ≠ 4294967295 →
          t.readWord (slotBase i + 0x78) = BitVec.ofNat 32 (t.slot i).gate.cardDiscarded))

/-- R16: a host completion toward the card is forwarded in OPEN, and in DRAIN, FENCED and PRIVATE discarded and
counted; no health event and no abort record results. The count is written where it changed. -/
def Obligations.HostCompletionForwardedOrCounted : Prop :=
  ∀ (i : Slot) (c : Completion) (s : State),
    (s.gateState i = .opened →
      exec (.hostCompletionTowardCard i c) s =
        .next (s.modSlot i fun x => { x with cardOut := x.cardOut ++ [.completion c] })) ∧
    (s.gateState i ≠ .opened →
      ∃ t, exec (.hostCompletionTowardCard i c) s = .next t ∧
        t.slot i = { s.slot i with gate := { (s.slot i).gate with
          cardDiscarded :=
            if (s.slot i).gate.cardDiscarded < 4294967295 then (s.slot i).gate.cardDiscarded + 1
            else 4294967295 } } ∧
        sameSlots [i] s t ∧ t.regs = s.regs ∧ sameBlocks s t ∧ sameClock s t ∧
        sameMemory [(slotBase i + 0x78, 4)] s t ∧
        ((s.slot i).gate.cardDiscarded = 4294967295 → t.mem = s.mem) ∧
        (s.regs.ready = true → Memory.wf s.mem = true → (s.slot i).gate.cardDiscarded ≠ 4294967295 →
          t.readWord (slotBase i + 0x78) = BitVec.ofNat 32 (t.slot i).gate.cardDiscarded))

/-! ### Card completions and the Pending Request Table -/

/-- R13, R14: a card completion at a gate in FENCED is discarded without matching and counted; so is one at a gate in
PRIVATE that matches no PROBE or RESTORE entry of the slot. It raises no health event and changes no retired tag and
no entry. The count is written where it changed. -/
def Obligations.FencedCompletionDiscarded : Prop :=
  ∀ (i : Slot) (c : Completion) (s : State),
    (s.gateState i = .fenced ∨
      (s.gateState i = .privatePath ∧
        ∀ x ∈ s.prt.entries, ¬(x.2.origin ≠ .fabric ∧ x.2.slot = i ∧ x.2.requester = c.requester ∧ x.2.tag = c.tag))) →
    ∃ t, exec (.cardCompletion i c) s = .next t ∧
      t.slot i = { s.slot i with gate := { (s.slot i).gate with
        cardDiscarded :=
          if (s.slot i).gate.cardDiscarded < 4294967295 then (s.slot i).gate.cardDiscarded + 1
          else 4294967295 } } ∧
      sameSlots [i] s t ∧ t.regs = s.regs ∧ sameBlocks s t ∧ sameClock s t ∧
      sameMemory [(slotBase i + 0x78, 4)] s t ∧
      ((s.slot i).gate.cardDiscarded = 4294967295 → t.mem = s.mem) ∧
      (s.regs.ready = true → Memory.wf s.mem = true → (s.slot i).gate.cardDiscarded ≠ 4294967295 →
        t.readWord (slotBase i + 0x78) = BitVec.ofNat 32 (t.slot i).gate.cardDiscarded)

/-- R12, R32, R33: in OPEN and DRAIN a completion within the bytes owed of the entry at `p` is forwarded; the entry ends
when nothing is owed or the status is not SUCCESS, else it stays with less owed and a new progress stamp, and no retired
tag is appended. A completion of more bytes is dropped, whatever its status: the entry ends, its key is retired, a
stand-in for the bytes owed goes to the host, and a MALFORMED event is counted (here without an abort ring, and in OPEN
where the event hands no score trigger on; all of it here with an empty pool wait list). That is all of it in OPEN, and
in DRAIN while a FABRIC entry of the group is live; in DRAIN with none left the drain's end follows in the same event,
as DRAIN_EMPTY has it (R81). -/
def Obligations.CompletionWithinBytesOwed : Prop :=
  ∀ (i : Slot) (c : Completion) (p : Nat) (e : Entry) (s : State),
    (s.gateState i = .opened ∨ s.gateState i = .drain) → s.prt.pool = [] →
    s.findEntry (fun x => x.origin == .fabric && x.slot == i && (x.slot == i && x.requester == c.requester && x.tag == c.tag))
      = some (p, e) →
    let follows (u : State) : Prop := EntryEndFollowed (.cardCompletion i c) i s u
    (c.byteCount ≤ e.owed →
      ∃ u : State, follows u ∧
        u.prt.entries =
          (if e.owed = c.byteCount ∨ c.status ≠ .success then s.prt.entries.filter (fun x => x.1 != p)
          else s.prt.entries.map (fun x =>
            if x.1 == p then (p, { e with owed := e.owed - c.byteCount, progress := s.timebase }) else x)) ∧
        u.prt.retired = s.prt.retired ∧ u.prt.pool = [] ∧
        u.slot i = { s.slot i with hostOut := (s.slot i).hostOut ++ [.completion c] } ∧
        sameSlots [i] s u ∧ u.regs = s.regs ∧ u.mem = s.mem ∧ u.arb = s.arb ∧ u.engine = s.engine ∧ sameClock s u) ∧
    (e.owed < c.byteCount → (s.gateState i = .drain ∨ s.noTrigger i .malformed) → (s.slot i).settings.ringCount = 0 →
      ∃ u : State, follows u ∧
        u.prt.entries = s.prt.entries.filter (fun x => x.1 != p) ∧
        u.prt.retired =
          (if s.prt.retired.length < 32 then s.prt.retired else s.prt.retired.drop 1) ++
            [⟨i, c.requester, c.tag⟩] ∧
        (u.slot i).hostOut = (s.slot i).hostOut ++ [.completion (standInFor (s.slot i).settings.ones e)] ∧
        Counted i .malformed s u ∧ sameSequencers [] s u ∧ sameSettings s u ∧ sameSlots [i] s u ∧
        u.arb = s.arb ∧ u.engine = s.engine ∧ sameClock s u ∧
        sameMemory [(slotBase i + 0x58, 2), (slotBase i + 0x6A, 2), noticeArea s] s u)

/-- R35, R36, R12: in OPEN and DRAIN a completion that matches no live entry is late when its key is retired,
which removes the retired tag, and stray otherwise; it is dropped, not counted as discarded, and its LATE or
STRAY event is counted (here where the event hands no score trigger on). -/
def Obligations.LateAndStrayCompletions : Prop :=
  ∀ (i : Slot) (c : Completion) (s : State),
    (s.gateState i = .opened ∨ s.gateState i = .drain) →
    (∀ x ∈ s.prt.entries, ¬(x.2.origin = .fabric ∧ x.2.slot = i ∧ x.2.requester = c.requester ∧ x.2.tag = c.tag)) →
    let late : Bool := s.prt.retired.contains ⟨i, c.requester, c.tag⟩
    let k : EventKind := if late then .late else .stray
    s.noTrigger i k →
    ∃ t, exec (.cardCompletion i c) s = .next t ∧
      t.prt = { s.prt with
        retired := if late then s.prt.retired.filter (fun x => x != ⟨i, c.requester, c.tag⟩) else s.prt.retired } ∧
      Counted i k s t ∧ sameTraffic s t ∧ sameSequencers [] s t ∧ sameSettings s t ∧ sameSlots [i] s t ∧
      t.arb = s.arb ∧ t.engine = s.engine ∧ sameClock s t ∧
      sameMemory [(slotBase i + 0x58, 2), (slotBase i + 0x64, 12), noticeArea s] s t

/-- R89 to R94, R34, R110: what the answer of an identity read does in PROBING. An identity that passes, as the last of
its group, ends PROBING with cause SEQUENCE: ONLINE where no member has an image, else RESTORING with one job for each
member that has one. While the engine is busy the jobs wait behind its own; with the engine idle the first becomes
active in the same event (R140, R142; here one whose image begins with a DATA or a REPEAT item, its first write going
out). All of it here with an empty pool wait list. All ones, an error status or an overlong completion, a RETRY after
the probe limit, and an identity that differs from the expected one fix the group's outcome: it is taken at once with no
read outstanding, the attempt failure or FAILED, and waits while another member's is. A RETRY before the limit waits
1,024 microseconds. Once the outcome is fixed no answer is judged: the end of the last outstanding read takes it. While
a CANCEL waits no answer is judged either (R100): the end of the last outstanding read is its safe point, and the group
is ISOLATED with cause CANCELLED; that this goes ahead of an outcome fixed before is the model's choice (assumption 14).
-/
def Obligations.IdentityReadAnswered : Prop :=
  ∀ (i : Slot) (p : Nat) (issue progress : Word) (s : State),
    let l := s.leaderOf i
    let q := (s.slot l).seq
    let want := (s.slot i).settings.identity
    let freed : State := { s with prt := { s.prt with entries := s.prt.entries.filter fun x => x.1 != p } }
    let alone : Prop := ∀ m, s.leaderOf m = l → m ≠ i → (s.slot m).probe ≠ some .outstanding
    let stays (t : State) : Prop := t.engine = s.engine ∧ t.timebase = s.timebase ∧ t.pending = s.pending
    let fails (k : Cause) (t : State) : Prop :=
      (alone → OutcomeTaken l k q freed t) ∧ (¬alone → OutcomeFixed l i k q freed t) ∧ stays t
    let imaged := (s.members l).filter fun m => decide ((s.slot m).settings.imageLength ≠ 0)
    let job (m : Slot) : Job := ⟨m, (s.slot m).settings.imageBase, (s.slot m).settings.imageLength, 0, none, 0, 0, false⟩
    q.state = .probing → (s.slot i).probe = some .outstanding → s.prt.pool = [] →
    s.findEntry (fun e => e.origin != .fabric && (e.slot == i && e.requester == 0xFFFF && e.tag == 1022))
      = some (p, ⟨i, .probe, .configRead 0, 0xFFFF, 1022, 1, 4, issue, progress, []⟩) →
    (q.cancelPending = false → q.fixedOutcome = none → ∀ b0 b1 b2 b3 : Byte,
      let w := wordOfBytes b0 b1 b2 b3
      let answer : Instr := .cardCompletion i ⟨0xFFFF, 1022, .success, 4, [b0, b1, b2, b3]⟩
      (w = 0xFFFFFFFF → ∃ t, exec answer s = .next t ∧ fails .probeOnes t) ∧
      (w ≠ 0xFFFFFFFF → want = 0 ∨ w = want →
        (∀ m, s.leaderOf m = l → m ≠ i → (s.slot m).probe = some .answered) →
        ((∀ m, s.leaderOf m = l → (s.slot m).settings.imageLength = 0) →
          ∃ t, exec answer s = .next t ∧
            (∀ m, s.leaderOf m = l →
              t.slot m = { (s.slot m).enters .online s.timebase with
                meter :=
                  ⟨0, true, true, some ⟨s.timebase, (s.slot m).settings.decayPeriod.micros, 0⟩, (s.slot m).meter.counts⟩
                seq := if m = l then { (q.enters .online .sequence s.timebase) with attempts := 0, flight := .none }
                  else (s.slot m).seq }) ∧
            sameSlots (s.members l) s t ∧ SequenceReported l .ok q s t ∧ GroupShown l s t ∧ t.prt = freed.prt ∧
            t.arb = s.arb ∧ t.engine = s.engine ∧ sameClock s t ∧
            sameMemory (endAreas l s ++ (s.members l).map fun m => (slotBase m + 0x58, 2)) s t) ∧
        ((∃ m, s.leaderOf m = l ∧ (s.slot m).settings.imageLength ≠ 0) → s.engine.phase ≠ .idle →
          ∃ t, exec answer s = .next t ∧
            GroupEntered l .restoring (q.enters .restoring .sequence s.timebase) id s t ∧
            t.engine = { s.engine with queue := s.engine.queue ++ imaged.map job } ∧
            (s.regs.ready = true → Memory.wf s.mem = true →
              ∀ m, s.leaderOf m = l → (s.slot m).settings.imageLength ≠ 0 →
                t.readWord (slotBase m + 0x7C) = 0 ∧ t.readWord (slotBase m + 0x80) = 0) ∧
            GroupShown l s t ∧ t.prt = freed.prt ∧ t.regs = s.regs ∧ t.arb = s.arb ∧ sameClock s t ∧
            sameMemory (memberAreas l s ++ (s.members l).map fun m => (slotBase m + 0x7C, 8)) s t) ∧
        (∀ (m : Slot) (rest : List Slot), imaged = m :: rest → s.engine.phase = .idle → s.engine.queue = [] →
          freed.prt.entries.length < 96 →
          let base := (s.slot m).settings.imageBase
          let size := (s.slot m).settings.imageLength
          let v := s.readWord base
          let kind := (v.extractLsb' 28 4).toNat
          let n := if v.extractLsb' 0 8 = 0 then 256 else (v.extractLsb' 0 8).toNat
          let d := s.readWord (base + 4)
          0x1900 ≤ base → base + size ≤ 0x10000 → (kind = 1 ∧ 4 + 4 * n ≤ size ∨ kind = 2 ∧ 8 ≤ size) →
          ∃ t, exec answer s = .next t ∧
            (∀ k, s.leaderOf k = l →
              t.slot k = { (s.slot k).enters .restoring s.timebase with
                seq := if k = l then q.enters .restoring .sequence s.timebase else (s.slot k).seq
                cardOut := (s.slot k).cardOut ++
                  if k = m then [.request ⟨.configWrite 0, 0xFFFF, 1023, 1,
                    [byteOf d 0, byteOf d 1, byteOf d 2, byteOf d 3]⟩] else [] }) ∧
            sameSlots (s.members l) s t ∧
            t.engine = { s.engine with
              queue := ⟨m, base, size, 0, some (if kind = 1 then .dataItem n 4 else .repeatItem n d), 0, 0, false⟩ ::
                rest.map job
              phase := .writeOut, burst := 0 } ∧
            t.prt.entries = placeEntry (lowestFree 0 freed.prt.entries)
              ⟨m, .restore, .configWrite 0, 0xFFFF, 1023, 1, 4, s.timebase, s.timebase, []⟩ freed.prt.entries ∧
            t.prt.pool = [] ∧ t.prt.retired = s.prt.retired ∧
            (s.regs.ready = true → Memory.wf s.mem = true →
              ∀ k ∈ imaged, t.readWord (slotBase k + 0x7C) = 0 ∧ t.readWord (slotBase k + 0x80) = 0) ∧
            GroupShown l s t ∧ t.regs = s.regs ∧ t.arb = s.arb ∧ sameClock s t ∧
            sameMemory (memberAreas l s ++ (s.members l).map fun k => (slotBase k + 0x7C, 8)) s t)) ∧
      (w ≠ 0xFFFFFFFF → want ≠ 0 → w ≠ want → ∃ t, exec answer s = .next t ∧ fails .identityMismatch t)) ∧
    (q.cancelPending = false → q.fixedOutcome = none → ∀ c : Completion, c.requester = 0xFFFF → c.tag = 1022 →
      (4 < c.byteCount ∨ c.status = .unsupported ∨ c.status = .abort →
        ∃ t, exec (.cardCompletion i c) s = .next t ∧ fails .probeError t) ∧
      (c.byteCount ≤ 4 → c.status = .retry →
        (q.probeLimitPassed = true → ∃ t, exec (.cardCompletion i c) s = .next t ∧ fails .probeLimit t) ∧
        (q.probeLimitPassed = false →
          ∃ t, exec (.cardCompletion i c) s = .next t ∧
            t.slot i = { s.slot i with probe := some (.retryWait ⟨s.timebase, 1024⟩) } ∧ sameSlots [i] s t ∧
            t.prt = freed.prt ∧ t.regs = s.regs ∧ t.mem = s.mem ∧ t.arb = s.arb ∧ stays t))) ∧
    (∀ c : Completion, c.requester = 0xFFFF → c.tag = 1022 → (4 ≤ c.byteCount ∨ c.status ≠ .success) →
      (∀ k : Cause, q.cancelPending = false → q.fixedOutcome = some k →
        ∃ t, exec (.cardCompletion i c) s = .next t ∧ (alone → OutcomeTaken l k q freed t) ∧
          (¬alone → ReadEnded i freed t) ∧ stays t) ∧
      (q.cancelPending = true → q.flight ≠ .none →
        ∃ t, exec (.cardCompletion i c) s = .next t ∧
          (alone → CancelEnded l q id freed t ∧ sameMemory (cancelAreas l q s) s t ∧ t.prt = freed.prt ∧ t.arb = s.arb) ∧
          (¬alone → ReadEnded i freed t) ∧ stays t))

/-- R29, R9: the head of the pool wait list is served with a free position: a gate below its quota forwards its held
request and holds none, a sequencer sends its probe read, the Restore Engine its write. The claimant behind it is then
examined in the same way, and that is all with no claimant left or no position. Without a free position nobody is
served, nor behind a gate at its quota. In a table whose positions rise, the entries afterwards are the old ones and the
new one, at the lowest free position. -/
def Obligations.PoolHeadIsServed : Prop :=
  (∀ (l : List (Nat × Entry)) (e : Entry), l.Pairwise (fun x y => x.1 < y.1) → PlacedLowest l e) ∧
  (∀ s : State,
    (s.prt.pool = [] ∨ 96 ≤ s.prt.entries.length ∨
      ∃ i : Slot, s.prt.pool.head? = some (.gate i) ∧ (s.slot i).settings.quota ≤ s.liveFabric i) →
    exec .poolHeadServed s = .next s) ∧
  ∀ (rest : List Claimant) (s : State), s.prt.entries.length < 96 →
    let served (t : State) : Prop :=
      exec .poolHeadServed s = exec .poolHeadServed t ∧
      (rest = [] ∨ s.prt.entries.length = 95 → exec .poolHeadServed s = .next t)
    (∀ (i : Slot) (h : HeldRequest), s.prt.pool = .gate i :: rest → (s.slot i).gate.held = some h →
      s.liveFabric i < (s.slot i).settings.quota →
      ∃ t, served t ∧ t.prt.pool = rest ∧
        t.prt.entries = placeEntry (lowestFree 0 s.prt.entries)
          ⟨i, .fabric, h.req.kind, h.req.requester, h.req.tag, h.req.length, h.req.length * 4,
            s.timebase, s.timebase, []⟩ s.prt.entries ∧
        t.prt.retired = s.prt.retired ∧
        t.slot i = { s.slot i with
          gate := { (s.slot i).gate with held := none }
          cardOut := (s.slot i).cardOut ++ [.request h.req] } ∧
        sameSlots [i] s t ∧ t.regs = s.regs ∧ t.mem = s.mem ∧ t.arb = s.arb ∧ t.engine = s.engine ∧
        sameClock s t) ∧
    (∀ i : Slot, s.prt.pool = .probe i :: rest →
      ∃ t, served t ∧ t.prt.pool = rest ∧
        t.prt.entries = placeEntry (lowestFree 0 s.prt.entries)
          ⟨i, .probe, .configRead 0, 0xFFFF, 1022, 1, 4, s.timebase, s.timebase, []⟩ s.prt.entries ∧
        t.slot i = { s.slot i with
          probe := some .outstanding
          cardOut := (s.slot i).cardOut ++ [.request ⟨.configRead 0, 0xFFFF, 1022, 1, []⟩] } ∧
        sameSlots [i] s t ∧ t.regs = s.regs ∧ t.mem = s.mem ∧ t.arb = s.arb ∧ t.engine = s.engine ∧
        sameClock s t) ∧
    (∀ (j : Job) (q : List Job) (d : Word), s.prt.pool = .restore :: rest → s.engine.queue = j :: q →
      s.engine.phase = .claimWait d →
      ∃ t, served t ∧ t.prt.pool = rest ∧
        t.prt.entries = placeEntry (lowestFree 0 s.prt.entries)
          ⟨j.slot, .restore, .configWrite (BitVec.ofNat 12 j.offset), 0xFFFF, 1023, 1, 4,
            s.timebase, s.timebase, []⟩ s.prt.entries ∧
        t.engine = { s.engine with phase := .writeOut } ∧
        (t.slot j.slot).cardOut = (s.slot j.slot).cardOut ++
          [.request ⟨.configWrite (BitVec.ofNat 12 j.offset), 0xFFFF, 1023, 1,
            [byteOf d 0, byteOf d 1, byteOf d 2, byteOf d 3]⟩] ∧
        sameSlots [j.slot] s t ∧ t.regs = s.regs ∧ t.mem = s.mem ∧ t.arb = s.arb ∧ sameClock s t)

/-- R42: with no sweep in progress, when the timebase stands at a multiple of 16, a sweep begins with every live entry
and this count as its now; at any other count nothing happens. -/
def Obligations.SweepBegins : Prop :=
  ∀ s : State, s.prt.sweep = none →
    (s.timebase.toNat % 16 = 0 →
      exec .expirySweep s =
        .next { s with prt := { s.prt with sweep := some ⟨s.timebase, s.prt.entries.map Prod.fst⟩ } }) ∧
    (s.timebase.toNat % 16 ≠ 0 → exec .expirySweep s = .next s)

/-- R42, R43: in a sweep, the first position left whose entry has reached its limit expires: the age of its progress
stamp at the sweep's now is at or above its slot's limit for its kind. A FABRIC entry of a slot in ONLINE or DRAINING
ends: its key is retired, a stand-in for the bytes owed goes to the host, and a TIMEOUT is counted (here with an empty
pool wait list, without an abort ring, and in ONLINE where the event hands no score trigger on). That is all of it in
ONLINE, and in DRAINING while a FABRIC entry of the group is live; in DRAINING with none left the drain's end follows in
the same event, as DRAIN_EMPTY has it (R81). -/
def Obligations.FabricEntryExpires : Prop :=
  (∀ (now : Word) (q : Nat) (x : Entry) (s : State), s.entryAt q = some x →
    (s.expiredAt now q = true ↔ expiryLimit (s.slot x.slot).settings x.kind ≤ (now - x.progress).toNat)) ∧
  ∀ (p : Position) (e : Entry) (w : Sweep) (s : State),
    s.prt.sweep = some w → s.prt.pool = [] →
    w.left.find? (fun q => s.expiredAt w.now q) = some p.val → s.entryAt p.val = some e → e.origin = .fabric →
    (s.stateOf e.slot = .online ∧ s.noTrigger e.slot .timeout ∨ s.stateOf e.slot = .draining) →
    (s.slot e.slot).settings.ringCount = 0 →
    ∃ u : State, EntryEndFollowed (.fabricEntryExpiry p) e.slot s u ∧
      u.prt.entries = s.prt.entries.filter (fun x => x.1 != p.val) ∧
      u.prt.retired =
        (if s.prt.retired.length < 32 then s.prt.retired else s.prt.retired.drop 1) ++ [⟨e.slot, e.requester, e.tag⟩] ∧
      u.prt.sweep = some { w with left := w.left.filter fun q => decide (p.val < q) } ∧
      (u.slot e.slot).hostOut = (s.slot e.slot).hostOut ++
        [.completion (if (s.slot e.slot).settings.ones then
            ⟨e.requester, e.tag, .success, e.owed,
              match e.kind with
              | .configWrite _ => []
              | _ => List.replicate e.owed 0xFF⟩
          else ⟨e.requester, e.tag, .abort, e.owed, []⟩)] ∧
      Counted e.slot .timeout s u ∧ sameSequencers [] s u ∧ sameSettings s u ∧ sameSlots [e.slot] s u ∧
      u.arb = s.arb ∧ u.engine = s.engine ∧ sameClock s u ∧
      sameMemory [(slotBase e.slot + 0x58, 2), (slotBase e.slot + 0x64, 2), noticeArea s] s u

/-- R42, R44, R89, R110, R151: the expiry of an entry of the part's own goes to its owner as a fault. A PROBE entry's
expiry fixes the group's outcome while another member's read is outstanding, and fails the attempt with PROBE_EXPIRED
when none is; with the outcome fixed before, or a CANCEL that waits, the expiry of the last outstanding read takes that
outcome or is the CANCEL's safe point (which of the two: the model's choice, assumption 14). A RESTORE entry's ends the
active job with its stop position written and fails the attempt with RESTORE_FAULT; with its removal pending it removes
the job, which is the safe point of the CANCEL that waits (R152; here with no other job); that the burst count is then
0: the model's choice (assumption 39). All of it here with an empty pool wait list. The part's own entries never get a
stand-in or an abort record. -/
def Obligations.OwnEntryExpires : Prop :=
  (∀ (now : Word) (q : Nat) (x : Entry) (s : State), s.entryAt q = some x →
    (s.expiredAt now q = true ↔ expiryLimit (s.slot x.slot).settings x.kind ≤ (now - x.progress).toNat)) ∧
  ∀ (p : Position) (e : Entry) (w : Sweep) (s : State),
    s.prt.sweep = some w → w.left.find? (fun q => s.expiredAt w.now q) = some p.val → s.entryAt p.val = some e →
    e.origin ≠ .fabric →
    let freed : State := { s with prt := { s.prt with
      entries := s.prt.entries.filter fun x => x.1 != p.val
      sweep := some { w with left := w.left.filter fun q => decide (p.val < q) } } }
    let l := s.leaderOf e.slot
    let q := (s.slot l).seq
    ∃ t, exec (.probeRestoreEntryExpiry p) s = .next t ∧
      (∀ j, (t.slot j).hostOut = (s.slot j).hostOut ∧ (t.slot j).ring = (s.slot j).ring) ∧
      sameSettings s t ∧ t.timebase = s.timebase ∧ t.pending = s.pending ∧
      (e.origin = .probe → s.prt.pool = [] → (s.slot e.slot).probe = some .outstanding → q.state = .probing →
        let alone : Prop := ∀ m, s.leaderOf m = l → m ≠ e.slot → (s.slot m).probe ≠ some .outstanding
        t.engine = s.engine ∧
        (q.cancelPending = false → q.fixedOutcome = none →
          (alone → OutcomeTaken l .probeExpired q freed t) ∧ (¬alone → OutcomeFixed l e.slot .probeExpired q freed t)) ∧
        (∀ k : Cause, q.cancelPending = false → q.fixedOutcome = some k →
          (alone → OutcomeTaken l k q freed t) ∧ (¬alone → ReadEnded e.slot freed t)) ∧
        (q.cancelPending = true → q.flight ≠ .none →
          (alone → CancelEnded l q id freed t ∧ sameMemory (cancelAreas l q s) s t ∧ t.prt = freed.prt ∧ t.arb = s.arb) ∧
          (¬alone → ReadEnded e.slot freed t))) ∧
      (∀ j : Job, e.origin = .restore → s.prt.pool = [] → s.engine.phase = .writeOut → s.engine.queue = [j] →
        s.engine.paused = [] → j.slot = e.slot →
        t.engine = { s.engine with queue := [], phase := .idle, burst := 0 } ∧
        (s.regs.ready = true → Memory.wf s.mem = true →
          t.readWord (slotBase e.slot + 0x80) = BitVec.ofNat 32 j.position) ∧
        (j.removalPending = false → q.cancelPending = false → s.groupRail l = true →
          AttemptFailed l .restoreFault q freed t ∧
          sameMemory ((slotBase e.slot + 0x80, 4) :: endAreas l s) s t ∧ t.arb = s.arb) ∧
        (j.removalPending = true → q.cancelPending = true → q.flight ≠ .none →
          CancelEnded l q id freed t ∧ sameMemory ((slotBase e.slot + 0x80, 4) :: cancelAreas l q s) s t ∧
          t.prt = freed.prt ∧ t.arb = s.arb))

/-! ### Health -/

/-- R59: a decay tick that is due lowers the score by D, not below 0, and makes the two arming tests on the new
score; before its time there is no tick. It posts no notice and hands on no trigger. -/
def Obligations.DecayTickTaken : Prop :=
  ∀ (i : Slot) (d : DecayPhase) (s : State), (s.slot i).meter.decay = some d →
    let c := (s.slot i).settings
    let m := (s.slot i).meter
    let v := if c.decayStep ≤ m.score then m.score - c.decayStep else 0
    (age s.timebase (d.start + BitVec.ofNat 32 (d.ticks * d.period)) < d.period →
      exec (.decayTick i) s = .next s) ∧
    (d.period ≤ age s.timebase (d.start + BitVec.ofNat 32 (d.ticks * d.period)) →
      ∃ t, exec (.decayTick i) s = .next t ∧
        t.slot i = { s.slot i with meter := { m with
          score := v
          isolateArmed := m.isolateArmed || decide (v < c.isolate)
          warnArmed := m.warnArmed || decide (v ≤ c.warn / 2)
          decay := some { d with ticks := d.ticks + 1 } } } ∧
        sameSlots [i] s t ∧ t.regs = s.regs ∧ sameBlocks s t ∧ sameClock s t ∧
        sameMemory [(slotBase i + 0x58, 2)] s t ∧
        (s.regs.ready = true → Memory.wf s.mem = true → v ≠ m.score →
          t.readHalf (slotBase i + 0x58) = BitVec.ofNat 16 v))

/-- R136, R53, R54, R56: a change of the alert level is recorded. A selected edge is counted in ONLINE and
DRAINING: score, event count and, on a rise through WARN, one HEALTH_WARN (here where it hands no score trigger
on). An edge that is not selected, or comes in another state, has no other effect; a level that does not change
is no edge. -/
def Obligations.AlertEdgeCounted : Prop :=
  ∀ (i : Slot) (level : Bool) (s : State),
    let selected : Bool :=
      match (s.slot i).settings.alertSelect with
      | .none => false
      | .rising => level
      | .falling => !level
      | .both => true
    let after := min ((s.slot i).meter.score + (s.slot i).settings.weightAlert) 4095
    ((s.slot i).lines.alert = level → exec (.alertEdge i level) s = .next s) ∧
    ((s.slot i).lines.alert ≠ level →
      ¬(selected = true ∧ (s.stateOf i = .online ∨ s.stateOf i = .draining)) →
      exec (.alertEdge i level) s = .next (s.modLines i fun x => { x with alert := level })) ∧
    ((s.slot i).lines.alert ≠ level → selected = true → (s.stateOf i = .online ∨ s.stateOf i = .draining) →
      s.noTrigger i .alert →
      ∃ t, exec (.alertEdge i level) s = .next t ∧ Counted i .alert s t ∧
        (t.slot i).lines = { (s.slot i).lines with alert := level } ∧
        (s.warns i .alert →
          t.regs = regsAfterNotice .healthWarn s.regs ∧ (t.slot i).meter.warnArmed = false ∧
          (s.regs.ready = true → Memory.wf s.mem = true →
            noticeReads s t (packBytes 4 i.val 32 0) 0 (packHalves after 6))) ∧
        (¬s.warns i .alert →
          t.regs = s.regs ∧ (t.slot i).meter.warnArmed = (s.slot i).meter.warnArmed) ∧
        (s.regs.ready = true → Memory.wf s.mem = true →
          (after ≠ (s.slot i).meter.score → t.readHalf (slotBase i + 0x58) = BitVec.ofNat 16 after) ∧
          ((s.slot i).meter.counts.alert < 65535 →
            t.readHalf (slotBase i + 0x6E) = BitVec.ofNat 16 ((s.slot i).meter.counts.alert + 1))) ∧
        sameMemory [(slotBase i + 0x58, 2), (slotBase i + 0x6E, 2), noticeArea s] s t ∧
        sameTraffic s t ∧ sameSequencers [] s t ∧ sameSettings s t ∧ sameSlots [i] s t ∧ sameBlocks s t ∧
        sameClock s t)

/-- R55, R64 to R67, R80, R5: an ALERT that rises through ISOLATE in ONLINE is counted, disarms ISOLATE and hands a score
trigger on. Under OBSERVE one HEALTH_WARN follows and the state stays. Under ISOLATE, under RECOVER with RUN 0, and with
the allowance spent, the group drains to ISOLATED; under RECOVER with an allowance it spends a unit and drains to the
ladder; each posts one AUTO_ACTION. The drain answers held requests (here where nobody waits in the pool wait list but
gates of the group, and without abort records), and with no FABRIC entry live it ends in the same event. (Here with no
rise through WARN.) -/
def Obligations.ScoreTriggerConsumed : Prop :=
  ∀ (i : Slot) (s : State), (s.slot i).lines.alert = false → (s.slot i).settings.alertSelect = .rising →
    s.stateOf i = .online →
    let l := s.leaderOf i
    let q := (s.slot l).seq
    let c := (s.slot i).settings
    let before := (s.slot i).meter.score
    let after := min (before + c.weightAlert) 4095
    let seen : State := s.modSlot i fun r => { r with
      lines := { r.lines with alert := true }
      meter := { r.meter with score := after, counts := r.meter.counts.add .alert, isolateArmed := false } }
    let areas : List (Nat × Nat) := [(slotBase i + 0x58, 2), (slotBase i + 0x6E, 2), noticeArea s]
    let shown (t : State) : Prop :=
      s.regs.ready = true → Memory.wf s.mem = true →
        (after ≠ before → t.readHalf (slotBase i + 0x58) = BitVec.ofNat 16 after) ∧
        ((s.slot i).meter.counts.alert < 65535 →
          t.readHalf (slotBase i + 0x6E) = BitVec.ofNat 16 ((s.slot i).meter.counts.alert + 1))
    c.isolate ≠ 0 → (s.slot i).meter.isolateArmed = true → before < c.isolate → c.isolate ≤ after →
    ¬s.warns i .alert →
    ((s.slot l).settings.policy = .observe →
      ∃ t, exec (.alertEdge i true) s = .next t ∧ t.slot i = seen.slot i ∧ sameSlots [i] s t ∧
        t.regs = regsAfterNotice .healthWarn s.regs ∧
        (s.regs.ready = true → Memory.wf s.mem = true →
          noticeReads s t (packBytes 4 l.val 33 0) 0 (packHalves after i.val)) ∧
        shown t ∧ sameMemory areas s t ∧ sameBlocks s t ∧ sameClock s t) ∧
    ((s.slot l).settings.policy ≠ .observe → s.drainsPlainly l →
      let recovers : Bool :=
        decide ((s.slot l).settings.policy = .recover) && s.regs.run && decide (q.allowance ≠ 0)
      let spent : Bool :=
        decide ((s.slot l).settings.policy = .recover) && s.regs.run && decide (q.allowance = 0)
      ∃ u t : State, exec (.alertEdge i true) s = .next t ∧
        DrainingEntered l
          { q with
            flight := if recovers then Flight.autoRecover else Flight.autoIsolate
            allowance := if recovers then q.allowance - 1 else q.allowance }
          (if recovers then .ladder else .isolated) .score seen u ∧
        DrainingBegun i l seen u t ∧ u.regs = regsAfterNotice .autoAction s.regs ∧
        (s.regs.ready = true → Memory.wf s.mem = true →
          noticeReads s u (packBytes 2 l.val 4 0) (BitVec.ofNat 32 (if recovers then 17 else if spent then 18 else 16))
            (packHalves after i.val)) ∧
        shown u ∧ sameMemory (areas ++ memberAreas l s) s u ∧ u.arb = s.arb ∧ u.engine = s.engine ∧ sameClock s u)

/-! ### DRAINING -/

/-- R81, R107, Table 4-4: when the live FABRIC count of every member is 0 the drain ends with cause SEQUENCE: to
ISOLATED or to the power-off steps, with the sequence ended OK, or to the ladder's first attempt. With a member's entry
still live nothing happens. With a CANCEL pending this is its safe point (Table 4-6): ISOLATED with cause CANCELLED, the
sequence ended CANCELLED and the CANCEL OK. The model's choice (assumption 23): the levels of the ladder that follows
the drain are the working ones for an automatic recovery and those formed at its taking for an order. -/
def Obligations.DrainEndsEmpty : Prop :=
  ∀ (i : Slot) (s : State),
    let l := s.leaderOf i
    let q := (s.slot l).seq
    let c := (s.slot l).settings
    q.state = .draining →
    ((∃ m, s.leaderOf m = l ∧ s.liveFabric m ≠ 0) → exec (.drainEmpty i) s = .next s) ∧
    ((∀ m, s.leaderOf m = l → s.liveFabric m = 0) → q.cancelPending = true → q.flight ≠ .none →
      ∃ t, exec (.drainEmpty i) s = .next t ∧
        CancelEnded l q id s t ∧ sameMemory (cancelAreas l q s) s t ∧ sameBlocks s t ∧ sameClock s t) ∧
    ((∀ m, s.leaderOf m = l → s.liveFabric m = 0) → q.cancelPending = false →
      (q.destination = some .isolated →
        ∃ t, exec (.drainEmpty i) s = .next t ∧
          GroupEntered l .isolated { (q.enters .isolated .sequence s.timebase) with flight := .none } id s t ∧
          SequenceReported l .ok q s t ∧ GroupShown l s t ∧ sameMemory (endAreas l s) s t ∧ sameBlocks s t ∧
          sameClock s t) ∧
      (q.destination = some .powerOff →
        ∃ t, exec (.drainEmpty i) s = .next t ∧
          GroupEntered l .unpowered
            { ((q.discharges (s.groupRail l) c.dischargeDwell s.timebase).enters .unpowered .sequence s.timebase) with
              flight := .none }
            (fun n => { (if s.groupRail l then n.cut else n) with resetAsserted := true }) s t ∧
          SequenceReported l .ok q s t ∧ GroupShown l s t ∧ sameMemory (endAreas l s) s t ∧ sameBlocks s t ∧
          sameClock s t) ∧
      (q.destination = some .ladder →
        let start := clampLevel (s.groupLock l) (if q.flight = .autoRecover then c.startLevel else q.startLevel)
        let max := clampLevel (s.groupLock l) (if q.flight = .autoRecover then c.maxLevel else q.maxLevel)
        (start ≤ 2 ∨ s.waitsDischarge l) →
        ∃ t, exec (.drainEmpty i) s = .next t ∧
          AttemptBegun l start .sequence { q with startLevel := start, maxLevel := max, attempts := 0 } s t ∧
          GroupShown l s t ∧ sameMemory (memberAreas l s) s t ∧
          t.regs = s.regs ∧ t.arb = s.arb ∧ t.engine = s.engine ∧ sameClock s t))

/-- R81, R107, R45, R39: at the end of the drain limit every member is fenced: no FABRIC entry of the group is left,
each one's stand-in has gone to the host behind what had been sent, oldest issue stamp first, its key is the newest
retired tag, and the group goes to the drain's destination: to ISOLATED or the ladder with cause DRAIN_EXPIRED, or by
the power-off steps to UNPOWERED with cause SEQUENCE (R78 step 4; assumption 12); with a CANCEL pending, to ISOLATED
with cause CANCELLED. Before its end there is no expiry. Here nobody waits in the pool wait list but gates of the
group, and the group's rail is on, as it is in DRAINING. The model's choices: the members are fenced in slot order
(assumption 11), and the levels of the ladder (assumption 23). -/
def Obligations.DrainLimitFences : Prop :=
  ∀ (i : Slot) (s : State),
    let l := s.leaderOf i
    let q := (s.slot l).seq
    q.state = .draining →
    (dueNow q.limit s.timebase = false → exec (.drainLimitExpiry i) s = .next s) ∧
    (dueNow q.limit s.timebase = true → s.KeysApart → s.onlyGatesWait l → s.groupRail l = true →
      q.destination ≠ none → (q.cancelPending = true → q.flight ≠ .none) →
      ∃ t, exec (.drainLimitExpiry i) s = .next t ∧
        DrainEnded l .drainExpired .sequence s t ∧
        t.prt.entries =
          s.prt.entries.filter (fun x => !(x.2.origin == .fabric && s.leaderOf x.2.slot == l)) ∧
        GroupFenced l (!q.cancelPending && q.destination == some .ladder) s t ∧ t.prt.pool = [] ∧ GroupShown l s t ∧
        sameSlots (s.members l) s t ∧ sameSequencers [l] s t ∧ sameSettings s t ∧ t.arb = s.arb ∧
        t.engine = s.engine ∧ t.timebase = s.timebase ∧ t.pending = s.pending ∧
        (s.keepsNoRing l → sameMemory (noticeRing :: (slotBase l + 0x50, 4) :: memberAreas l s) s t))

/-! ### The attempts of a ladder -/

/-- R129, R109, R88, Table 4-6: at the end of a reset hold the links of a level-1 attempt are enabled and the reset
lines of a level-2 attempt released, and the group is TRAINING with its train limit running; with every link up it goes
on to PROBING at once, and every member claims its read, in slot order: the model's choice (assumption 11). With a
CANCEL pending the hold's end is its safe point: the group is ISOLATED, the sequence ends CANCELLED and the CANCEL OK,
and a level-2 attempt leaves the reset lines asserted. -/
def Obligations.ResetHoldEnds : Prop :=
  ∀ (i : Slot) (s : State),
    let l := s.leaderOf i
    let q := (s.slot l).seq
    let g : Lines → Lines := fun n => if q.level ≤ 1 then { n with linkDisabled := false } else { n with resetAsserted := false }
    q.state = .resetting →
    (dueNow q.limit s.timebase = false → exec (.resetHoldEnd i) s = .next s) ∧
    (dueNow q.limit s.timebase = true → q.cancelPending = false →
      ((∃ m, s.leaderOf m = l ∧ (s.slot m).lines.linkUp = false) →
        ∃ t, exec (.resetHoldEnd i) s = .next t ∧
          GroupEntered l .training
            { (q.enters .training .sequence s.timebase) with
              limit := some ⟨s.timebase, (s.slot l).settings.trainLimit.micros⟩ } g s t ∧
          GroupShown l s t ∧ sameMemory (memberAreas l s) s t ∧ t.regs = s.regs ∧ sameBlocks s t ∧ sameClock s t) ∧
      ((∀ m, s.leaderOf m = l → (s.slot m).lines.linkUp = true) →
        ∃ t, exec (.resetHoldEnd i) s = .next t ∧
          ProbingEntered l
            { (q.enters .probing .sequence s.timebase) with
              limit := some ⟨s.timebase, (s.slot l).settings.probeLimit.micros⟩ } g s t ∧
          GroupShown l s t ∧ sameMemory (memberAreas l s) s t ∧ t.regs = s.regs ∧ t.arb = s.arb ∧
          t.engine = s.engine ∧ sameClock s t)) ∧
    (dueNow q.limit s.timebase = true → q.cancelPending = true →
      ∃ t, exec (.resetHoldEnd i) s = .next t ∧
        CancelEnded l q (fun n => if q.level ≤ 1 then { n with linkDisabled := false } else n) s t ∧
        sameMemory (cancelAreas l q s) s t ∧ sameBlocks s t ∧ sameClock s t)

/-- R84, R88, R109: the end of the train limit is an attempt failure. Attempts used rises by 1; below the attempts
per level the level is repeated, else it rises by one below the max level with attempts used 0, else the ladder
is exhausted and the group is FAILED, its rail kept under the lock and off otherwise. (Here with a rail on.) -/
def Obligations.TrainLimitLevelChoice : Prop :=
  ∀ (i : Slot) (s : State),
    let l := s.leaderOf i
    let q := (s.slot l).seq
    let c := (s.slot l).settings
    let lock := s.groupLock l
    q.state = .training →
    (dueNow q.limit s.timebase = false → exec (.trainLimitExpiry i) s = .next s) ∧
    (dueNow q.limit s.timebase = true → q.cancelPending = false → s.groupRail l = true →
      (q.attempts + 1 < c.attemptsPerLevel →
        ∃ t, exec (.trainLimitExpiry i) s = .next t ∧
          AttemptBegun l (clampLevel lock q.level) .trainLimit { q with attempts := q.attempts + 1 } s t ∧
          GroupShown l s t ∧ sameMemory (memberAreas l s) s t ∧ t.regs = s.regs ∧ t.arb = s.arb ∧
          t.engine = s.engine ∧ sameClock s t) ∧
      (¬q.attempts + 1 < c.attemptsPerLevel → q.level < clampLevel lock q.maxLevel →
        ∃ t, exec (.trainLimitExpiry i) s = .next t ∧
          AttemptBegun l (clampLevel lock (q.level + 1)) .trainLimit { q with attempts := 0 } s t ∧
          GroupShown l s t ∧ sameMemory (memberAreas l s) s t ∧ t.regs = s.regs ∧ t.arb = s.arb ∧
          t.engine = s.engine ∧ sameClock s t) ∧
      (¬q.attempts + 1 < c.attemptsPerLevel → ¬q.level < clampLevel lock q.maxLevel →
        ∃ t, exec (.trainLimitExpiry i) s = .next t ∧
          GroupEntered l .failed
            { ((q.discharges (!lock) c.dischargeDwell s.timebase).enters .failed .ladderExhausted s.timebase) with
              attempts := q.attempts + 1, railKept := lock, flight := .none }
            (fun n => { (if lock then n else n.cut) with resetAsserted := true }) s t ∧
          SequenceReported l .ladderExhausted q s t ∧ GroupShown l s t ∧ sameMemory (endAreas l s) s t ∧
          sameBlocks s t ∧ sameClock s t))

/-- R90, R110: at the end of a RETRY wait the member claims an entry for a new identity read, which goes out at once
with a free position and an empty pool wait list and waits in that list otherwise. At the end of the probe limit a
member that waits, for an entry or in RETRY_WAIT, fails the attempt with PROBE_LIMIT, its claim withdrawn; while
another member's read is outstanding that fixes the group's outcome instead. The model's choice (assumption 24):
while no member waits, the limit's end is marked and the group stays in PROBING. -/
def Obligations.RetryAndProbeLimit : Prop :=
  ∀ (i : Slot) (s : State),
    let l := s.leaderOf i
    let q := (s.slot l).seq
    let waits (m : Slot) : Bool :=
      match (s.slot m).probe with
      | some .waitingEntry => true
      | some (.retryWait _) => true
      | some .outstanding => false
      | some .answered => false
      | none => false
    let withdrawn : State := { s with prt := { s.prt with pool := s.prt.pool.filter fun c =>
      match c with
      | .probe m => !(decide (s.leaderOf m = l) && waits m)
      | .gate _ => true
      | .restore => true } }
    (∀ w : Timer, (s.slot i).probe = some (.retryWait w) → q.probeLimitPassed = false →
      (w.due s.timebase = false → exec (.retryWaitEnd i) s = .next s) ∧
      (w.due s.timebase = true →
        ∃ t, exec (.retryWaitEnd i) s = .next t ∧
          (s.prt.entries.length < 96 → s.prt.pool = [] →
            t.prt.entries = placeEntry (lowestFree 0 s.prt.entries)
              ⟨i, .probe, .configRead 0, 0xFFFF, 1022, 1, 4, s.timebase, s.timebase, []⟩ s.prt.entries ∧
            t.prt.pool = [] ∧
            t.slot i = { s.slot i with
              probe := some .outstanding
              cardOut := (s.slot i).cardOut ++ [.request ⟨.configRead 0, 0xFFFF, 1022, 1, []⟩] }) ∧
          (¬(s.prt.entries.length < 96 ∧ s.prt.pool = []) →
            t.prt.entries = s.prt.entries ∧ t.slot i = { s.slot i with probe := some .waitingEntry } ∧
            (s.prt.pool ≠ [] → t.prt.pool = s.prt.pool ++ [.probe i]) ∧
            (s.prt.pool = [] → t.prt.pool = [.probe i])) ∧
          sameSlots [i] s t ∧ t.regs = s.regs ∧ t.mem = s.mem ∧ t.arb = s.arb ∧ t.engine = s.engine ∧
          sameClock s t)) ∧
    (q.state = .probing →
      (dueNow q.limit s.timebase = false → exec (.probeLimitExpiry i) s = .next s) ∧
      (dueNow q.limit s.timebase = true →
        (∀ m, s.leaderOf m = l → (s.slot m).probe = some .outstanding ∨ (s.slot m).probe = some .answered) →
        ∃ t, exec (.probeLimitExpiry i) s = .next t ∧
          t.slot l = { s.slot l with seq := { q with limit := none, probeLimitPassed := true } } ∧
          sameSlots [l] s t ∧ t.regs = s.regs ∧ t.mem = s.mem ∧ sameBlocks s t ∧ sameClock s t) ∧
      (dueNow q.limit s.timebase = true → q.cancelPending = false → (∃ m, s.leaderOf m = l ∧ waits m = true) →
        (s.prt.pool = [] ∨ 96 ≤ s.prt.entries.length) →
        ∃ t, exec (.probeLimitExpiry i) s = .next t ∧
          ((∀ m, s.leaderOf m = l → (s.slot m).probe ≠ some .outstanding) → s.groupRail l = true →
            AttemptFailed l .probeLimit q withdrawn t ∧ sameMemory (endAreas l s) s t ∧ t.arb = s.arb) ∧
          ((∃ m, s.leaderOf m = l ∧ (s.slot m).probe = some .outstanding) →
            (t.slot l).seq = { q with limit := none, probeLimitPassed := true, fixedOutcome := some .probeLimit } ∧
            (∀ m, s.leaderOf m = l → waits m = true → (t.slot m).probe = some .answered) ∧
            sameSequencers [l] s t ∧ sameSlots (s.members l) s t ∧ t.prt = withdrawn.prt ∧ t.regs = s.regs ∧ t.mem = s.mem ∧
            t.arb = s.arb) ∧
          t.engine = s.engine ∧ sameClock s t))

/-! ### Power -/

/-- R73, R120: when the discharge dwell has passed the timer stops. At rest nothing else changes; a group that
waits in UNPOWERED within its sequence enters AWAIT_POWER and asks for a grant of the sum of its members'
allotments (here behind other waiters under ARRIVAL mode).The upper half of the
word at 0x28 is written 0: the model's choice (assumption 19). -/
def Obligations.DischargeTimerStops : Prop :=
  ∀ (i : Slot) (s : State),
    let l := s.leaderOf i
    let q := (s.slot l).seq
    (dueNow q.discharge s.timebase = false → exec (.dischargeTimerStop i) s = .next s) ∧
    (dueNow q.discharge s.timebase = true → ¬(q.state = .unpowered ∧ q.flight ≠ .none) →
      exec (.dischargeTimerStop i) s = .next (s.modSeq l fun x => { x with discharge := none })) ∧
    (dueNow q.discharge s.timebase = true → q.state = .unpowered → q.flight ≠ .none →
      s.arb.mode = .arrival → s.arb.waiters ≠ [] → (∀ w ∈ s.arb.waiters, w.leader ≠ l) →
      ∃ t, exec (.dischargeTimerStop i) s = .next t ∧
        GroupEntered l .awaitPower (({ q with discharge := none }).enters .awaitPower .sequence s.timebase) id s t ∧
        t.arb = { s.arb with waiters := s.arb.waiters ++
          [⟨l, ((s.members l).map fun m => (s.slot m).settings.allotment).sum⟩] } ∧
        (s.regs.ready = true → Memory.wf s.mem = true →
          t.readWord 0x28 = packBytes t.arb.granted t.arb.waiters.length 0 0) ∧
        GroupShown l s t ∧ sameMemory ((0x28, 4) :: memberAreas l s) s t ∧ t.regs = s.regs ∧ t.prt = s.prt ∧
        t.engine = s.engine ∧ sameClock s t)

/-- R122, R123, R115, R116: the head of the grant wait list is the first waiter in ARRIVAL mode and the one of the
lowest leader in SLOT_ORDER. A head whose amount does not fit the total is not granted, and nobody behind it is
examined. One that fits is granted and leaves the list, and its group is POWERING: rails on, the power-good limit
running unless every member's power-good stands present, and each present member risen. The new head is then
examined in the same way. With no waiter nothing happens.The upper half of the
word at 0x28 is written 0: the model's choice (assumption 19). -/
def Obligations.GrantGiven : Prop :=
  ∀ s : State,
    let heads (a : Arbiter) (w : Waiter) : Prop :=
      ∃ before behind : List Waiter, a.waiters = before ++ w :: behind ∧
        (a.mode = .arrival → before = []) ∧
        (a.mode = .slotOrder → (∀ x ∈ before, w.leader < x.leader) ∧ ∀ x ∈ behind, w.leader ≤ x.leader)
    (s.arb.waiters = [] → exec .grant s = .next s) ∧
    (∀ w : Waiter, heads s.arb w → s.arb.total < s.arb.granted + w.amount → exec .grant s = .next s) ∧
    (∀ w : Waiter, heads s.arb w → s.arb.granted + w.amount ≤ s.arb.total → s.leaderOf w.leader = w.leader →
      let l := w.leader
      let q := (s.slot l).seq
      let c := (s.slot l).settings
      let left : Arbiter := { s.arb with
        granted := s.arb.granted + w.amount, waiters := s.arb.waiters.filter fun x => x.leader != l }
      ∃ u : State, exec .grant s = exec .grant u ∧
        (left.waiters = [] ∨ (∃ x, heads left x ∧ left.total < left.granted + x.amount) →
          exec .grant s = .next u) ∧
        u.arb = left ∧
        GroupEntered l .powering
          { (q.enters .powering .sequence s.timebase) with grant := some w.amount, limit := s.poweringLimit l }
          (fun n => n.poweredOn c s.timebase) s u ∧
        (s.regs.ready = true → Memory.wf s.mem = true →
          u.readWord 0x28 = packBytes u.arb.granted u.arb.waiters.length 0 0) ∧
        GroupShown l s u ∧ sameMemory ((0x28, 4) :: memberAreas l s) s u ∧ u.regs = s.regs ∧ u.prt = s.prt ∧
        u.engine = s.engine ∧ sameClock s u)

/-- R114, R116: a power-good rise is recorded. In POWERING it is the member's rise: the risen mark is set, the
reference clock enabled and the stability dwell started; with the last member's rise the power-good limit
stops. -/
def Obligations.PowerGoodRises : Prop :=
  ∀ (i : Slot) (s : State),
    let l := s.leaderOf i
    ((s.slot i).lines.powerGood = true → exec (.powerGoodRise i) s = .next s) ∧
    ((s.slot i).lines.powerGood = false → s.stateOf i ≠ .powering →
      exec (.powerGoodRise i) s = .next (s.modLines i fun x => { x with powerGood := true })) ∧
    ((s.slot i).lines.powerGood = false → s.stateOf i = .powering → (s.slot i).lines.risen = false →
      ∃ t, exec (.powerGoodRise i) s = .next t ∧
        (t.slot i).lines = { (s.slot i).lines with
          powerGood := true, risen := true, clock := true
          dwell := some ⟨s.timebase, (s.slot l).settings.stabilityDwell.micros⟩, dwellEnded := false } ∧
        (t.slot l).seq =
          (if (s.members l).all fun m => decide (m = i) || (s.slot m).lines.risen then
            { (s.slot l).seq with limit := none } else (s.slot l).seq) ∧
        (∀ j, j ≠ i → (t.slot j).lines = (s.slot j).lines) ∧ sameSequencers [l] s t ∧ sameTraffic s t ∧
        (∀ j, (t.slot j).meter = (s.slot j).meter ∧ (t.slot j).probe = (s.slot j).probe) ∧ sameSettings s t ∧
        t.regs = s.regs ∧ t.mem = s.mem ∧ sameBlocks s t ∧ sameClock s t)

/-- R114, R97, R116, Table 6-2: a power-good fall is recorded. In a rail-off state, and in POWERING before the member's
rise, it does nothing else. In POWERING after the rise the attempt fails (`PoweringFailed`): rails off with the
discharge timer started, clocks gated, dwells over, grant returned; without the lock the level-3 attempt is repeated
below the attempts per level, the retired tags purged, else the ladder is exhausted and its sequence ended (here with a
rail on, nobody in the grant wait list and no CANCEL waiting); that FAILED keeps level 3 also where the choice under the
lock is 2: the model's choice (assumption 13). In a rail-on state it is a rail fault (here where no job of another group
is queued): ONLINE and DRAINING are fenced first (here where nobody waits in the pool wait list but gates of the group),
rails off with the discharge timer started, clocks gated, reset lines asserted, jobs removed, UNPOWERED with cause
RAIL_FAULT (`GroupLost`), one RAIL_FAULT notice, and the sequence in flight ended with it; a CANCEL that waits ends OK
behind these notices (R101). The group's live PROBE and RESTORE entries are freed and its claims withdrawn (R47, R30;
here as `State.givesUpPlainly` says). The members are fenced in slot order, and claims are withdrawn before a freed
position is offered: the model's choices (assumptions 11 and 37). -/
def Obligations.PowerGoodFalls : Prop :=
  ∀ (i : Slot) (s : State), (s.slot i).lines.powerGood = true →
    let l := s.leaderOf i
    let q := (s.slot l).seq
    ((q.state = .vacant ∨ q.state = .unpowered ∨ q.state = .awaitPower ∨ (q.state = .failed ∧ q.railKept = false) ∨
        (q.state = .powering ∧ (s.slot i).lines.risen = false)) →
      exec (.powerGoodFall i) s = .next (s.modLines i fun x => { x with powerGood := false })) ∧
    (∀ a : Nat, q.state = .powering → (s.slot i).lines.risen = true → q.grant = some a → s.arb.waiters = [] →
      s.groupRail l = true → q.level = 3 → q.maxLevel = 3 → q.cancelPending = false →
      ∃ t, exec (.powerGoodFall i) s = .next t ∧
        PoweringFailed l .powerGoodLost a (s.modLines i fun x => { x with powerGood := false }) t) ∧
    ((q.state = .resetting ∨ q.state = .training ∨ q.state = .probing ∨ q.state = .restoring ∨ q.state = .online ∨
        q.state = .draining ∨ q.state = .isolated ∨ (q.state = .failed ∧ q.railKept = true)) →
      (∀ j ∈ s.engine.queue, s.leaderOf j.slot = l) →
      ∃ t, exec (.powerGoodFall i) s = .next t ∧
        GroupLost l i .unpowered .railFault (fun x => { x with powerGood := false }) q s t ∧
        (s.KeysApart →
          (s.onlyGatesWait l → (q.state = .online ∨ q.state = .draining) →
            GroupFenced l false s t ∧ t.prt.pool = [] ∧ sameSlots (s.members l) s t) ∧
          (q.state ≠ .online → q.state ≠ .draining →
            t.prt.retired = s.prt.retired ∧ (∀ j, (t.slot j).hostOut = (s.slot j).hostOut) ∧
            (s.givesUpPlainly l → OwnGivenUp l s t) ∧
            ((∀ m, Claimant.gate m ∉ s.prt.pool) →
              t.prt.entries.filter (fun x => x.2.origin == .fabric) =
                s.prt.entries.filter (fun x => x.2.origin == .fabric)))) ∧
        (s.keepsNoRing l ∨ (q.state ≠ .online ∧ q.state ≠ .draining) →
          LossReported .railFault .railFault (if q.flight = .none then 0 else 15) .railFault l i q s t ∧
          sameMemory
            (noticeRing :: (slotBase l + 0x50, 4) :: (memberAreas l s ++ (s.members l).map fun m => (slotBase m + 0x80, 4)))
            s t) ∧
        GroupShown l s t ∧ t.arb = s.arb ∧ t.timebase = s.timebase ∧ t.pending = s.pending)

/-- R116: the power-good limit's end in POWERING is an attempt failure with POWER_GOOD_LIMIT (`PoweringFailed`): rails
off and the discharge timer started, clocks gated, dwells over, grant returned (here with a rail on, nobody in the grant
wait list and no CANCEL waiting); without the lock the level-3 attempt is repeated below the attempts per level, the
members' retired tags purged (R41), else the ladder is exhausted and its sequence ended; that FAILED keeps level 3 also
where the choice under the lock is 2: the model's choice (assumption 13). Before its end there is no expiry. -/
def Obligations.PowerGoodLimitEnds : Prop :=
  ∀ (i : Slot) (s : State),
    let l := s.leaderOf i
    let q := (s.slot l).seq
    q.state = .powering →
    (dueNow q.limit s.timebase = false → exec (.powerGoodLimitExpiry i) s = .next s) ∧
    (∀ a : Nat, dueNow q.limit s.timebase = true → q.grant = some a → s.arb.waiters = [] → s.groupRail l = true →
      q.level = 3 → q.maxLevel = 3 → q.cancelPending = false →
      ∃ t, exec (.powerGoodLimitExpiry i) s = .next t ∧ PoweringFailed l .powerGoodLimit a s t)

/-- R117: a stability dwell's end marks its member. While another member's dwell runs nothing else changes. With
the last one, every power-good present, the grant is returned, the reset lines are released, the links enabled,
and the group is TRAINING (here with a link down and no waiter).The upper half of the
word at 0x28 is written 0: the model's choice (assumption 19). -/
def Obligations.StabilityDwellEnds : Prop :=
  ∀ (i : Slot) (s : State),
    let l := s.leaderOf i
    let q := (s.slot l).seq
    q.state = .powering →
    (dueNow (s.slot i).lines.dwell s.timebase = false → exec (.stabilityDwellEnd i) s = .next s) ∧
    (dueNow (s.slot i).lines.dwell s.timebase = true →
      (∃ m, s.leaderOf m = l ∧ m ≠ i ∧ (s.slot m).lines.dwellEnded = false) →
      exec (.stabilityDwellEnd i) s = .next (s.modLines i fun x => { x with dwell := none, dwellEnded := true })) ∧
    (∀ a : Nat, dueNow (s.slot i).lines.dwell s.timebase = true →
      (∀ m, s.leaderOf m = l → m ≠ i → (s.slot m).lines.dwellEnded = true) →
      (∀ m, s.leaderOf m = l → (s.slot m).lines.powerGood = true) →
      (∃ m, s.leaderOf m = l ∧ (s.slot m).lines.linkUp = false) → q.grant = some a → s.arb.waiters = [] →
      ∃ t, exec (.stabilityDwellEnd i) s = .next t ∧
        GroupEntered l .training
          { (({ q with grant := none }).enters .training .sequence s.timebase) with
            limit := some ⟨s.timebase, (s.slot l).settings.trainLimit.micros⟩ }
          (fun n => { n with resetAsserted := false, linkDisabled := false }) s t ∧
        t.arb = { s.arb with granted := s.arb.granted - a } ∧
        (s.regs.ready = true → Memory.wf s.mem = true → t.arb.granted ≠ s.arb.granted →
          t.readWord 0x28 = packBytes t.arb.granted 0 0 0) ∧
        GroupShown l s t ∧ sameMemory ((0x28, 4) :: memberAreas l s) s t ∧ t.regs = s.regs ∧ t.prt = s.prt ∧
        t.engine = s.engine ∧ sameClock s t)

/-! ### Links and presence -/

/-- R96, R131, R109, R88, R110: a LINK_UP sets the flag and writes it, in every state. In TRAINING the last member's
link ends TRAINING and the group is PROBING, where every member claims its read, in slot order: the model's choice
(assumption 11); otherwise nothing else changes. -/
def Obligations.LinkComesUp : Prop :=
  ∀ (i : Slot) (s : State), s.regs.ready = true → (s.slot i).lines.linkUp = false →
    let l := s.leaderOf i
    let q := (s.slot l).seq
    (¬(q.state = .training ∧ ∀ m, s.leaderOf m = l → m ≠ i → (s.slot m).lines.linkUp = true) →
      ∃ t, exec (.linkUp i) s = .next t ∧
        t.slot i = { s.slot i with lines := { (s.slot i).lines with linkUp := true } } ∧
        (Memory.wf s.mem = true → (t.readHalf (slotBase i + 0x5A)).getLsbD 0 = true) ∧
        sameSlots [i] s t ∧ t.regs = s.regs ∧ sameBlocks s t ∧ sameClock s t ∧
        sameMemory [(slotBase i + 0x54, 16)] s t) ∧
    (q.state = .training → (∀ m, s.leaderOf m = l → m ≠ i → (s.slot m).lines.linkUp = true) →
      ∃ t, exec (.linkUp i) s = .next t ∧
        (t.slot l).seq =
          { (q.enters .probing .sequence s.timebase) with
            limit := some ⟨s.timebase, (s.slot l).settings.probeLimit.micros⟩ } ∧
        (∀ m, s.leaderOf m = l → (t.slot m).lines.linkUp = true) ∧
        ProbingEntered l (t.slot l).seq (fun n => { n with linkUp := true }) s t ∧
        GroupShown l s t ∧ sameMemory (memberAreas l s) s t ∧ t.regs = s.regs ∧ t.arb = s.arb ∧ t.engine = s.engine ∧ sameClock s t)

/-- R96, R57, R65, R66, R82, R4, R45, R39: a LINK_DOWN clears the flag; in a state outside ONLINE and DRAINING nothing
else changes. In ONLINE and DRAINING it is counted, with one HEALTH_WARN on a rise through WARN, and the group is fenced:
every member's live entries are answered, oldest first, then its held request, and the keys are retired. In ONLINE the
trigger is then consumed: under OBSERVE and ISOLATE, under RECOVER with RUN 0, and with the allowance spent, the group
is ISOLATED at once; under RECOVER with an allowance it begins a recovery at the start level. In DRAINING the drain
ends with cause LINK_DOWN at its destination, or at the safe point of a waiting CANCEL. Here nobody waits in the pool
wait list but gates of the group, and the group's rail is on, as it is in these states. The model's choices: the members
are fenced in slot order (assumption 11), the power-off steps have cause LINK_DOWN (12), the levels of a ladder (23),
and HEALTH_WARN goes ahead of the other notices (32). -/
def Obligations.LinkGoesDown : Prop :=
  ∀ (i : Slot) (s : State), (s.slot i).lines.linkUp = true →
    let l := s.leaderOf i
    let q := (s.slot l).seq
    let c := (s.slot l).settings
    let after := min ((s.slot i).meter.score + (s.slot i).settings.weightLinkDown) 4095
    let recovers : Bool := decide (c.policy = .recover) && s.regs.run && decide (q.allowance ≠ 0)
    let spent : Bool := decide (c.policy = .recover) && s.regs.run && decide (q.allowance = 0)
    let start := clampLevel (s.groupLock l) c.startLevel
    let down : State := s.modLines i fun x => { x with linkUp := false }
    let counted : State :=
      { down with regs := if s.warns i .linkDown then regsAfterNotice .healthWarn s.regs else s.regs }
    (q.state ≠ .online → q.state ≠ .draining →
      ∃ t, exec (.linkDown i) s = .next t ∧
        t.slot i = { s.slot i with lines := { (s.slot i).lines with linkUp := false } } ∧
        sameSlots [i] s t ∧ t.regs = s.regs ∧ sameBlocks s t ∧ sameClock s t ∧
        sameMemory [(slotBase i + 0x54, 16)] s t) ∧
    (s.KeysApart → s.onlyGatesWait l → s.groupRail l = true →
      (q.state = .online ∧ q.cancelPending = false) ∨
        (q.state = .draining ∧ q.destination ≠ none ∧ (q.cancelPending = true → q.flight ≠ .none)) →
      ∃ t, exec (.linkDown i) s = .next t ∧
        (t.slot i).meter.score = after ∧ (t.slot i).meter.counts = (s.slot i).meter.counts.add .linkDown ∧
        (∀ m, s.leaderOf m = l → (t.slot m).meter.decay = none ∧ (t.slot m).cardOut = (s.slot m).cardOut ∧
          (m ≠ i → (t.slot m).meter.score = (s.slot m).meter.score ∧ (t.slot m).meter.counts = (s.slot m).meter.counts)) ∧
        t.prt.entries =
          s.prt.entries.filter (fun x => !(x.2.origin == .fabric && s.leaderOf x.2.slot == l)) ∧
        t.prt.pool = [] ∧
        GroupFenced l
          (if q.state = .online then recovers else !q.cancelPending && q.destination == some .ladder) s t ∧
        (q.state = .online →
          ((t.slot l).seq =
            (if recovers then
              ({ q with
                flight := .autoRecover, allowance := q.allowance - 1, attempts := 0, startLevel := start
                maxLevel := clampLevel (s.groupLock l) c.maxLevel }).atAttempt start .linkDown c true s.timebase
            else { (q.enters .isolated .linkDown s.timebase) with flight := .none })) ∧
          (∀ m, s.leaderOf m = l →
            (t.slot m).lines =
              (if recovers then
                Lines.atAttempt start true
                  ((down.slot m).enters (if start ≤ 2 then .resetting else .unpowered) s.timebase).lines
              else ((down.slot m).enters .isolated s.timebase).lines)) ∧
          (s.keepsNoRing l →
            t.regs = regsAfterNotice .autoAction counted.regs ∧
            (s.regs.ready = true → Memory.wf s.mem = true →
              noticeReads counted t (packBytes 2 l.val 5 0)
                (BitVec.ofNat 32 (if recovers then 17 else if spent then 18 else 16)) (packHalves after i.val)))) ∧
        (q.state = .draining → DrainEnded l .linkDown .linkDown counted t) ∧
        (s.keepsNoRing l →
          (s.warns i .linkDown → s.regs.ready = true → Memory.wf s.mem = true →
            noticeReads s t (packBytes 4 i.val 32 0) 0 (packHalves after 5)) ∧
          sameMemory
            (noticeRing :: (slotBase i + 0x58, 2) :: (slotBase i + 0x6C, 2) :: (slotBase i + 0x54, 16) ::
              (slotBase l + 0x50, 4) :: memberAreas l s) s t) ∧
        sameSettings s t ∧ sameSequencers [l] s t ∧ sameSlots (s.members l) s t ∧ t.arb = s.arb ∧
        t.engine = s.engine ∧ GroupShown l s t ∧ t.timebase = s.timebase ∧ t.pending = s.pending)

/-- R98, R135: a presence loss at a member of a group that is not VACANT takes the whole group to VACANT with cause
REMOVED (`GroupLost`; here where no job of another group is queued): with a rail on, rails off, their clocks gated and
the discharge timer started (R73, R119); reset lines asserted, rail kept no, no retired tag or job of the group left,
nor from ONLINE and DRAINING a FABRIC entry, which its fence has answered (here where nobody waits in the pool wait list
but gates of the group). Its live PROBE and RESTORE entries are freed and its claims withdrawn (R47, R30; here as
`State.givesUpPlainly` says), its grant is returned (here where no other leader waits in the grant wait list), one
CARD_REMOVED notice posted, and its sequence ended NO_CARD; a CANCEL that waits ends OK behind these notices (R101). The
members are fenced in slot order, and claims are withdrawn before a freed position is offered: the model's choices
(assumptions 11 and 37). In VACANT the loss is recorded and nothing else changes. -/
def Obligations.PresenceLost : Prop :=
  ∀ (i : Slot) (s : State), s.regs.ready = true → (s.slot i).lines.present = true →
    let l := s.leaderOf i
    let q := (s.slot l).seq
    (q.state = .vacant → exec (.presenceLoss i) s = .next (s.modLines i fun x => { x with present := false })) ∧
    (q.state ≠ .vacant → (∀ j ∈ s.engine.queue, s.leaderOf j.slot = l) →
      (∀ w ∈ s.arb.waiters, w.leader = l ∧ q.state = .awaitPower) →
      ∃ t, exec (.presenceLoss i) s = .next t ∧
        GroupLost l i .vacant .removed (fun x => { x with present := false })
          { q with grant := if q.state = .powering then none else q.grant } s t ∧
        (∀ n, q.state = .powering → q.grant = some n → t.arb.granted = s.arb.granted - n) ∧
        (q.state ≠ .powering → t.arb.granted = s.arb.granted) ∧
        (∀ j, j ≠ i → (t.slot j).lines.present = (s.slot j).lines.present) ∧
        (s.KeysApart →
          (s.onlyGatesWait l → (q.state = .online ∨ q.state = .draining) →
            GroupFenced l true s t ∧ t.prt.pool = [] ∧ sameSlots (s.members l) s t) ∧
          (q.state ≠ .online → q.state ≠ .draining →
            t.prt.retired = (s.prt.retired.filter fun k => decide (s.leaderOf k.slot ≠ l)) ∧
            (∀ j, (t.slot j).hostOut = (s.slot j).hostOut) ∧ (s.givesUpPlainly l → OwnGivenUp l s t))) ∧
        (s.keepsNoRing l ∨ (q.state ≠ .online ∧ q.state ≠ .draining) →
          LossReported .cardRemoved .removed 0 .noCard l i q s t ∧
          sameMemory
            ((0x28, 4) :: noticeRing :: (slotBase l + 0x50, 4) ::
              (memberAreas l s ++ (s.members l).map fun m => (slotBase m + 0x80, 4))) s t) ∧
        GroupShown l s t ∧
        (q.state = .online ∨ q.state = .draining →
          ∀ x ∈ t.prt.entries, x.2.origin = .fabric → s.leaderOf x.2.slot ≠ l) ∧
        (∀ k ∈ t.prt.retired, s.leaderOf k.slot ≠ l) ∧
        t.arb.waiters = [] ∧ t.timebase = s.timebase ∧ t.pending = s.pending)

/-- R99: a presence gained in VACANT takes the group to UNPOWERED at rest with cause ARRIVED, and posts
CARD_ARRIVED, when every member is present. With a member still absent, or in another state, the presence is
recorded and nothing else changes. -/
def Obligations.PresenceGained : Prop :=
  ∀ (i : Slot) (s : State), s.regs.ready = true → (s.slot i).lines.present = false →
    let l := s.leaderOf i
    let q := (s.slot l).seq
    let seen := s.modLines i fun x => { x with present := true }
    (q.state ≠ .vacant ∨ (∃ m, s.leaderOf m = l ∧ m ≠ i ∧ (s.slot m).lines.present = false) →
      exec (.presenceGain i) s = .next seen) ∧
    (q.state = .vacant → (∀ m, s.leaderOf m = l → m ≠ i → (s.slot m).lines.present = true) →
      ∃ t, exec (.presenceGain i) s = .next t ∧
        GroupEntered l .unpowered (q.enters .unpowered .arrived s.timebase) id seen t ∧
        t.regs = regsAfterNotice .cardArrived s.regs ∧
        (Memory.wf s.mem = true → noticeReads s t (packBytes 5 l.val 1 0) 0 0) ∧
        GroupShown l s t ∧ sameMemory (noticeArea s :: memberAreas l s) s t ∧ sameBlocks s t ∧ sameClock s t)

/-- R138, Table 7-2: a blink changes its level at the end of its on or off time, measured from the count at which
the level began; a steady pattern and a time that still runs change nothing. -/
def Obligations.BlinkToggles : Prop :=
  ∀ (i : Slot) (s : State),
    let d := (s.slot i).lines.indicator
    let phase : Option Nat :=
      match d.pattern, d.lit with
      | .fastBlink, _ => some 125000
      | .slowBlink, _ => some 500000
      | .locateBlink, true => some 1000000
      | .locateBlink, false => some 250000
      | .off, _ => none
      | .steadyOn, _ => none
    (∀ n, phase = some n → n ≤ age s.timebase d.since →
      exec (.indicatorBlinkToggle i) s = .next (s.modLines i fun x =>
        { x with indicator := ⟨d.pattern, !d.lit, d.since + BitVec.ofNat 32 n⟩ })) ∧
    ((∀ n, phase = some n → age s.timebase d.since < n) → exec (.indicatorBlinkToggle i) s = .next s)

/-! ### The Configuration Restore Engine -/

/-- R148, R142: a paused job whose pause has ended rejoins the queue at the tail. With a job active it waits
there. With the engine idle it becomes active, and its item is carried out: an END of a group of one slot
leaves RESTORING for ONLINE, and its sequence ends OK (here where no CANCEL waits); that the burst count is then 0: the
model's choice (assumption 39). A pause that runs, or no pause, changes nothing. -/
def Obligations.PauseEnds : Prop :=
  ∀ (i : Slot) (s : State),
    ((∀ p, s.engine.paused.find? (fun p => p.job.slot == i) = some p → p.pause.due s.timebase = false) →
      exec (.pauseEnd i) s = .next s) ∧
    (∀ p : PausedJob, s.engine.paused.find? (fun p => p.job.slot == i) = some p → p.pause.due s.timebase = true →
      (s.engine.phase ≠ .idle →
        exec (.pauseEnd i) s = .next { s with engine := { s.engine with
          queue := s.engine.queue ++ [p.job], paused := s.engine.paused.filter fun x => x.job.slot != i } }) ∧
      (s.engine.phase = .idle → s.engine.queue = [] → s.engine.paused = [p] → p.job.item = none →
        p.job.position + 4 ≤ p.job.length → p.job.offset ≤ 4096 →
        (s.readWord (p.job.base + p.job.position)).extractLsb' 28 4 = 15 →
        s.members i = [i] → (s.slot i).seq.state = .restoring →
        ∃ t, exec (.pauseEnd i) s = .next t ∧
          (t.slot i).seq.state = .online ∧ (t.slot i).seq.cause = .sequence ∧ (t.slot i).seq.flight = .none ∧
          (t.slot i).seq.attempts = 0 ∧ (t.slot i).meter.score = 0 ∧
          (t.slot i).meter.decay = some ⟨s.timebase, (s.slot i).settings.decayPeriod.micros, 0⟩ ∧
          (s.regs.ready = true → Memory.wf s.mem = true →
            t.readWord (slotBase i + 0x80) = BitVec.ofNat 32 p.job.position) ∧
          ((s.slot i).seq.cancelPending = false → SequenceReported i .ok (s.slot i).seq s t ∧ GroupShown i s t ∧
            sameMemory ((slotBase i + 0x80, 4) :: (slotBase i + 0x58, 2) :: endAreas i s) s t) ∧
          t.engine = { s.engine with queue := [], paused := [], burst := 0 } ∧ sameSlots [i] s t ∧
          t.prt = s.prt ∧ t.arb = s.arb ∧ sameClock s t))

/-- R143, R145 to R148, R150, R151, R141: the items and writes of an image, seen at the end of a write and at the end of
a pause that finds the engine idle (here with an empty pool wait list, in a table of any entries of at most 96, with no
CANCEL waiting where an attempt fails or an image is in error). A write that ends SUCCESS raises writes done and moves
its job by one dword; the next write goes out with the next dword of the image, or the REPEAT dword, of the active job,
or in ROTATE mode, when the burst is spent, of the job behind it; a job that rotates alone goes on with a burst count of
0, as does one that becomes active at its pause's end (R142). The last write of an item is followed by the next item
(here a PAUSE). A SUCCESS of no bytes leaves the write out. A write that ends otherwise fails the attempt with
RESTORE_FAULT and removes the group's jobs (here without a job of another group). A DATA and a REPEAT item begin with
their first write, a SEEK sets the offset, a PAUSE leaves the queue; a failed check takes the group to ISOLATED with
IMAGE_ERROR. Every end of a job writes its stop position. A write that ends while its job's removal is pending is not
judged (R152): its job is removed, and with no other job of the group left this is the safe point of the CANCEL that
waits (R100). That the burst count of an idle engine is 0: the model's choice (assumption 39). -/
def Obligations.RestoreItemsAndWrites : Prop :=
  (∀ (j : Job) (rest : List Job) (p : Nat) (e : Entry) (s : State),
    s.gateState j.slot = .privatePath → s.engine.queue = j :: rest → s.engine.phase = .writeOut →
    j.removalPending = false → s.prt.entries.length ≤ 96 → s.prt.pool = [] →
    s.findEntry (fun x => x.origin != .fabric && (x.slot == j.slot && x.requester == 0xFFFF && x.tag == 1023))
      = some (p, e) → e.origin = .restore → e.owed = 4 →
    let freed : State := { s with prt := { s.prt with entries := s.prt.entries.filter fun x => x.1 != p } }
    let l := s.leaderOf j.slot
    let q := (s.slot l).seq
    let ok : Instr := .cardCompletion j.slot ⟨0xFFFF, 1023, .success, 4, []⟩
    let burst := min (s.engine.burst + 1) 4294967295
    let moved (k : Option ItemInProgress) (position : Nat) : Job :=
      { j with writesDone := j.writesDone + 1, offset := j.offset + 4, item := k, position := position }
    let counted (t : State) : Prop :=
      sameMemory [(slotBase j.slot + 0x7C, 4)] s t ∧
      (Memory.wf s.mem = true → s.regs.ready = true →
        t.readWord (slotBase j.slot + 0x7C) = BitVec.ofNat 32 (j.writesDone + 1)) ∧
      t.regs = s.regs ∧ t.arb = s.arb ∧ t.timebase = s.timebase ∧ t.pending = s.pending
    let writes (k : Job) (d : Word) (t : State) : Prop :=
      t.prt.entries = placeEntry (lowestFree 0 freed.prt.entries)
        ⟨k.slot, .restore, .configWrite (BitVec.ofNat 12 k.offset), 0xFFFF, 1023, 1, 4, s.timebase, s.timebase, []⟩
        freed.prt.entries ∧ t.prt.pool = [] ∧ t.prt.retired = s.prt.retired ∧
      t.slot k.slot = { s.slot k.slot with cardOut := (s.slot k.slot).cardOut ++
        [.request ⟨.configWrite (BitVec.ofNat 12 k.offset), 0xFFFF, 1023, 1,
          [byteOf d 0, byteOf d 1, byteOf d 2, byteOf d 3]⟩] } ∧
      sameSlots [k.slot] s t
    (∀ rem next : Nat, j.item = some (.dataItem rem next) → 2 ≤ rem → 0x1900 ≤ j.base →
      j.base + next + 8 ≤ 0x10000 → (s.engine.mode = .sequential ∨ burst < s.engine.burstLength) →
      ∃ t, exec ok s = .next t ∧ counted t ∧
        t.engine = { s.engine with queue := moved (some (.dataItem (rem - 1) (next + 4))) j.position :: rest, burst := burst } ∧
        writes (moved none 0) (s.readWord (j.base + next + 4)) t) ∧
    (∀ (rem : Nat) (d : Word), j.item = some (.repeatItem rem d) → 2 ≤ rem →
      (s.engine.mode = .sequential ∨ burst < s.engine.burstLength) →
      ∃ t, exec ok s = .next t ∧ counted t ∧
        t.engine = { s.engine with queue := moved (some (.repeatItem (rem - 1) d)) j.position :: rest, burst := burst } ∧
        writes (moved none 0) d t) ∧
    (∀ (rem next r x : Nat) (k : Job) (more : List Job), j.item = some (.dataItem rem next) → 2 ≤ rem →
      s.engine.mode = .rotate → s.engine.burstLength ≤ burst → rest = k :: more → k.item = some (.dataItem r x) →
      0x1900 ≤ k.base → k.base + x + 4 ≤ 0x10000 →
      ∃ t, exec ok s = .next t ∧ counted t ∧
        t.engine = { s.engine with
          queue := k :: more ++ [moved (some (.dataItem (rem - 1) (next + 4))) j.position], burst := 0 } ∧
        writes k (s.readWord (k.base + x)) t) ∧
    (∀ rem next : Nat, j.item = some (.dataItem rem next) → 2 ≤ rem → 0x1900 ≤ j.base →
      j.base + next + 8 ≤ 0x10000 → s.engine.mode = .rotate → s.engine.burstLength ≤ burst → rest = [] →
      ∃ t, exec ok s = .next t ∧ counted t ∧
        t.engine = { s.engine with queue := [moved (some (.dataItem (rem - 1) (next + 4))) j.position], burst := 0 } ∧
        writes (moved none 0) (s.readWord (j.base + next + 4)) t) ∧
    (∀ (rem : Nat) (d : Word), j.item = some (.repeatItem rem d) → 2 ≤ rem → s.engine.mode = .rotate →
      s.engine.burstLength ≤ burst → rest = [] →
      ∃ t, exec ok s = .next t ∧ counted t ∧
        t.engine = { s.engine with queue := [moved (some (.repeatItem (rem - 1) d)) j.position], burst := 0 } ∧
        writes (moved none 0) d t) ∧
    (∀ after : Nat,
      ((∃ next, j.item = some (.dataItem 1 next) ∧ after = next + 4) ∨
        (∃ d, j.item = some (.repeatItem 1 d) ∧ after = j.position + 8)) →
      rest = [] → j.offset + 4 ≤ 4096 → after + 4 ≤ j.length → 0x1900 ≤ j.base → j.base + j.length ≤ 0x10000 →
      let w := s.readWord (j.base + after)
      w.extractLsb' 28 4 = 4 →
      ∃ t, exec ok s = .next t ∧ counted t ∧
        t.engine = { s.engine with
          queue := [], phase := .idle, burst := 0
          paused := s.engine.paused ++
            [⟨moved none (after + 4), ⟨s.timebase, DurCode.micros ⟨w.extractLsb' 0 8, w.extractLsb' 8 2⟩⟩⟩] } ∧
        t.prt = freed.prt ∧ sameSlots [] s t) ∧
    (∃ t, exec (.cardCompletion j.slot ⟨0xFFFF, 1023, .success, 0, []⟩) s = .next t ∧ t.engine = s.engine ∧
      t.prt = { s.prt with entries := s.prt.entries.map fun x =>
        if x.1 == p then (p, { e with progress := s.timebase }) else x } ∧ sameSlots [] s t ∧ t.mem = s.mem ∧ t.regs = s.regs ∧
      t.arb = s.arb ∧ t.timebase = s.timebase ∧ t.pending = s.pending) ∧
    (∀ c : Completion, c.requester = 0xFFFF → c.tag = 1023 → (4 < c.byteCount ∨ c.status ≠ .success) → rest = [] →
      (∀ x ∈ s.engine.paused, s.leaderOf x.job.slot = l ∧ x.job.slot ≠ j.slot) → q.cancelPending = false →
      s.groupRail l = true →
      ∃ t, exec (.cardCompletion j.slot c) s = .next t ∧
        AttemptFailed l .restoreFault q freed t ∧
        t.engine = { s.engine with queue := [], paused := [], phase := .idle, burst := 0 } ∧
        (s.regs.ready = true → Memory.wf s.mem = true →
          t.readWord (slotBase j.slot + 0x80) = BitVec.ofNat 32 j.position) ∧
        sameMemory (endAreas l s ++ (s.members l).map fun m => (slotBase m + 0x80, 4)) s t ∧ t.arb = s.arb ∧
        t.timebase = s.timebase ∧ t.pending = s.pending)) ∧
  (∀ (x : PausedJob) (s : State),
    s.engine.paused = [x] → x.pause.due s.timebase = true → s.engine.phase = .idle → s.engine.queue = [] →
    x.job.item = none →
    let j := x.job
    let l := s.leaderOf j.slot
    let q := (s.slot l).seq
    let w := s.readWord (j.base + j.position)
    let kind := (w.extractLsb' 28 4).toNat
    let n := if w.extractLsb' 0 8 = 0 then 256 else (w.extractLsb' 0 8).toNat
    let span := if kind = 1 then 4 + 4 * n else if kind = 2 then 8 else 4
    let run := if kind = 1 ∨ kind = 2 then 4 * n else 0
    let passes : Prop :=
      j.position + 4 ≤ j.length ∧ (kind = 1 ∨ kind = 2 ∨ kind = 3 ∨ kind = 4 ∨ kind = 15) ∧
      j.position + span ≤ j.length ∧ j.offset + run ≤ 4096
    let d := s.readWord (j.base + j.position + 4)
    (passes → (kind = 1 ∨ kind = 2) → s.prt.entries.length < 96 → s.prt.pool = [] →
      ∃ t, exec (.pauseEnd j.slot) s = .next t ∧
        t.engine = { s.engine with
          queue := [{ j with
            item := some (if kind = 1 then .dataItem n (j.position + 4) else .repeatItem n d) }]
          paused := [], phase := .writeOut, burst := 0 } ∧
        t.prt.entries = placeEntry (lowestFree 0 s.prt.entries)
          ⟨j.slot, .restore, .configWrite (BitVec.ofNat 12 j.offset), 0xFFFF, 1023, 1, 4, s.timebase, s.timebase, []⟩
          s.prt.entries ∧
        t.slot j.slot = { s.slot j.slot with cardOut := (s.slot j.slot).cardOut ++
          [.request ⟨.configWrite (BitVec.ofNat 12 j.offset), 0xFFFF, 1023, 1,
            [byteOf d 0, byteOf d 1, byteOf d 2, byteOf d 3]⟩] } ∧
        sameSlots [j.slot] s t ∧ t.regs = s.regs ∧ t.mem = s.mem ∧ t.arb = s.arb ∧ sameClock s t) ∧
    (passes → kind = 4 →
      exec (.pauseEnd j.slot) s = .next { s with engine := { s.engine with
        burst := 0
        paused := [⟨{ j with position := j.position + 4 },
          ⟨s.timebase, DurCode.micros ⟨w.extractLsb' 0 8, w.extractLsb' 8 2⟩⟩⟩] } }) ∧
    (passes → kind = 3 → d.extractLsb' 28 4 = 4 → j.position + 8 ≤ j.length →
      exec (.pauseEnd j.slot) s = .next { s with engine := { s.engine with
        burst := 0
        paused := [⟨{ j with position := j.position + 8, offset := 4 * (w.extractLsb' 0 10).toNat },
          ⟨s.timebase, DurCode.micros ⟨d.extractLsb' 0 8, d.extractLsb' 8 2⟩⟩⟩] } }) ∧
    (¬passes → q.cancelPending = false →
      ∃ t, exec (.pauseEnd j.slot) s = .next t ∧
        GroupEntered l .isolated { (q.enters .isolated .imageError s.timebase) with flight := .none } id s t ∧
        SequenceReported l .imageError q s t ∧ GroupShown l s t ∧
        t.engine = { s.engine with queue := [], paused := [], burst := 0 } ∧
        (s.regs.ready = true → Memory.wf s.mem = true →
          t.readWord (slotBase j.slot + 0x80) = BitVec.ofNat 32 j.position) ∧
        sameMemory ((slotBase j.slot + 0x80, 4) :: endAreas l s) s t ∧ t.prt = s.prt ∧ t.arb = s.arb ∧
        sameClock s t)) ∧
  (∀ (j : Job) (p : Nat) (e : Entry) (c : Completion) (s : State),
    s.gateState j.slot = .privatePath → s.engine.queue = [j] → s.engine.phase = .writeOut →
    j.removalPending = true → s.prt.pool = [] →
    s.findEntry (fun x => x.origin != .fabric && (x.slot == j.slot && x.requester == 0xFFFF && x.tag == 1023))
      = some (p, e) → e.origin = .restore → e.owed = 4 → c.requester = 0xFFFF → c.tag = 1023 →
    (4 ≤ c.byteCount ∨ c.status ≠ .success) →
    let l := s.leaderOf j.slot
    let q := (s.slot l).seq
    let ok : Prop := c.byteCount = 4 ∧ c.status = .success
    let stop : Nat :=
      match j.item with
      | some (.dataItem rem next) => if rem ≤ 1 then next + 4 else j.position
      | some (.repeatItem rem _) => if rem ≤ 1 then j.position + 8 else j.position
      | none => j.position
    q.cancelPending = true → q.flight ≠ .none → (∀ x ∈ s.engine.paused, s.leaderOf x.job.slot ≠ l) →
    ∃ t, exec (.cardCompletion j.slot c) s = .next t ∧
      CancelEnded l q id s t ∧
      t.engine = { s.engine with queue := [], phase := .idle, burst := 0 } ∧
      t.prt = { s.prt with entries := s.prt.entries.filter fun x => x.1 != p } ∧
      (s.regs.ready = true → Memory.wf s.mem = true →
        t.readWord (slotBase j.slot + 0x80) = BitVec.ofNat 32 (if ok then stop else j.position) ∧
        (ok → t.readWord (slotBase j.slot + 0x7C) = BitVec.ofNat 32 (j.writesDone + 1))) ∧
      sameMemory
        ((slotBase j.slot + 0x80, 4) :: ((if ok then [(slotBase j.slot + 0x7C, 4)] else []) ++ cancelAreas l q s)) s t ∧
      t.arb = s.arb ∧ t.timebase = s.timebase ∧ t.pending = s.pending)

/-! ### Orders -/

/-- R158, R159: a pending bit is taken while READY and RUN are 1. An order word of NONE only removes the bit; an
order word that the record does not know is read, set to NONE and reported BAD_ORDER by its notice alone; a
known one is decided as its row says. With the bit clear or RUN 0 nothing is taken. The model's choice: the notice of an
unknown order word names its low 16 bits (assumption 25), and the rows of the orders, NONE and the unknown order run as
the taking itself (assumption 9). -/
def Obligations.TakingAnOrder : Prop :=
  ∀ (r : RecordNo) (s : State),
    let w := s.readWord (recordBase r + orderOffset r)
    let known : Prop := if r.val < 8 then (1 ≤ w.toNat ∧ w.toNat ≤ 10) else w.toNat = 16
    (¬(s.regs.ready = true ∧ s.regs.run = true ∧ s.regs.attention.getLsbD r.val = true) →
      exec (.orderTaking r) s = .next s ∧ exec (.orderNone r) s = .next s ∧ exec (.unknownOrder r) s = .next s) ∧
    (s.regs.ready = true → s.regs.run = true → s.regs.attention.getLsbD r.val = true → Memory.wf s.mem = true →
      (w = 0 →
        exec (.orderTaking r) s = .next { s with regs := regsTaken r.val s.regs } ∧
        exec (.orderNone r) s = .next { s with regs := regsTaken r.val s.regs }) ∧
      (w ≠ 0 → ¬known →
        ∃ t, exec (.orderTaking r) s = .next t ∧ exec (.unknownOrder r) s = .next t ∧
          t.regs = regsAfterNotice .orderDone (regsTaken r.val s.regs) ∧
          t.readWord (recordBase r + orderOffset r) = 0 ∧
          noticeReads s t
            (packBytes 1 (if r.val < 8 then r.val else 15) w.toNat (w.toNat / 256)) 5 0 ∧
          sameMemory [(recordBase r + orderOffset r, 4), noticeArea s] s t ∧ sameSlots [] s t ∧ sameBlocks s t ∧
          sameClock s t)) ∧
    (∀ (i : Slot) (o : Order), r = slotRecord i → o ≠ .setCommon → s.presents i o →
      exec (.orderTaking r) s = exec (orderRow o i) s) ∧
    (r = 8 → w.toNat = 16 → exec (.orderTaking r) s = exec .setCommon s)

/-- R159 tests 2 and 3, R106: an order that moves a slot is refused NOT_LEADER at a member's record, and BUSY at a
leader whose order is in flight; either end is reported by its notice alone, and the outcome result stays. -/
def Obligations.OrdersRefused : Prop :=
  ∀ (i : Slot) (o : Order) (s : State), Memory.wf s.mem = true → s.presents i o →
    o ≠ .setCommon → o ≠ .locate → o ≠ .listPending →
    (s.leaderOf i ≠ i →
      ∃ t, exec (orderRow o i) s = .next t ∧ t.regs = regsAfterNotice .orderDone (regsTaken i.val s.regs) ∧
        t.readWord (slotBase i + 0x40) = 0 ∧
        noticeReads s t (packBytes 1 i.val o.code 0) 6 (s.endDetail i o) ∧
        sameMemory [(slotBase i + 0x40, 4), noticeArea s] s t ∧ sameSlots [] s t ∧ sameBlocks s t ∧
        sameClock s t) ∧
    (s.leaderOf i = i → (s.slot i).seq.flight.isOrder = true → o ≠ .cancel → o ≠ .refill →
      ∃ t, exec (orderRow o i) s = .next t ∧ t.regs = regsAfterNotice .orderDone (regsTaken i.val s.regs) ∧
        t.readWord (slotBase i + 0x40) = 0 ∧
        noticeReads s t (packBytes 1 i.val o.code 0) 3 (s.endDetail i o) ∧
        sameMemory [(slotBase i + 0x40, 4), noticeArea s] s t ∧ sameSlots [] s t ∧ sameBlocks s t ∧
        sameClock s t)

/-- R161, R162, R104, R105, R102, Table 9-4: CONFIGURE at the leader of a group of any size is BUSY outside VACANT,
UNPOWERED at rest or within an automatic recovery, ISOLATED and FAILED. In these the members' areas are checked in slot
order, and the first failing word ends it BAD_SETTING with its offset and slot; which word of a pair is named is the
model's choice (assumption 16). A set join flag of slot 7, and a group as it will stand whose allotments exceed the
budget total, end it BAD_SETTING; a change of a join flag, one group of which is not at rest out of service, ends it
BUSY, and one that would cut a rail under the lock LOCKED. No setting changes then. Accepted, every member's area
becomes its working settings, and a new ring base or count starts its abort ring empty. The groups are then those of the
join flags, whether joined or split: a group that holds no slot whose group changed keeps everything, and each other one
is VACANT, or UNPOWERED at rest with every member present, rails off, links enabled, with the discharge timer that stops
last, its leader's own allowance, and every outcome area written. The start and max level that a leader's record keeps:
the model's choice (assumption 27). -/
def Obligations.ConfigureLatches : Prop :=
  ∀ (i : Slot) (s : State), Memory.wf s.mem = true → s.presents i .configure → s.admits i →
    let q := (s.slot i).seq
    let w (m : Slot) (k : Nat) : Word := s.readWord (slotBase m + k)
    let f (m : Slot) (k lo n : Nat) : Nat := ((w m k).extractLsb' lo n).toNat
    let dur (m : Slot) (k lo : Nat) : DurCode := ⟨(w m k).extractLsb' lo 8, (w m k).extractLsb' (lo + 8) 2⟩
    let bad (m : Slot) : Option Nat :=
      if 2 < f m 0 8 8 ∨ 3 < f m 0 16 8 then some 0x00
      else if f m 4 0 8 = 0 ∨ 32 < f m 4 0 8 ∨ f m 4 8 8 = 0 ∨ 64 < f m 4 8 8 ∨ f m 4 16 8 = 0 ∨ 4 < f m 4 16 8 ∨
        f m 4 24 4 = 0 ∨ 3 < f m 4 24 4 ∨ f m 4 28 4 = 0 ∨ 3 < f m 4 28 4 ∨ f m 4 28 4 < f m 4 24 4 then some 0x04
      else if 4095 < f m 0x24 0 16 ∨ 4095 < f m 0x24 16 16 ∨
        (f m 0x24 0 16 ≠ 0 ∧ f m 0x24 16 16 ≠ 0 ∧ f m 0x24 16 16 < f m 0x24 0 16) then some 0x24
      else if w m 0x30 ≠ 0 ∧ ((w m 0x2C).toNat % 16 ≠ 0 ∨ (w m 0x2C).toNat < 0x1900) then some 0x2C
      else if w m 0x30 ≠ 0 ∧ ((w m 0x30).toNat % 4 ≠ 0 ∨ 0x10000 < (w m 0x2C).toNat + (w m 0x30).toNat) then some 0x30
      else if w m 0x38 ≠ 0 ∧ ((w m 0x34).toNat % 32 ≠ 0 ∨ (w m 0x34).toNat < 0x1900) then some 0x34
      else if w m 0x38 ≠ 0 ∧
        ((w m 0x38 ≠ 4 ∧ w m 0x38 ≠ 8 ∧ w m 0x38 ≠ 16 ∧ w m 0x38 ≠ 32 ∧ w m 0x38 ≠ 64) ∨
          0x10000 < (w m 0x34).toNat + 32 * (w m 0x38).toNat) then some 0x38
      else none
    let area (m : Slot) : Settings :=
      { join := (w m 0).getLsbD 0, lock := (w m 0).getLsbD 1, ones := (w m 0).getLsbD 2
        policy := if f m 0 8 8 = 0 then .observe else if f m 0 8 8 = 1 then .isolate else .recover
        alertSelect :=
          if f m 0 16 8 = 0 then .none else if f m 0 16 8 = 1 then .rising
          else if f m 0 16 8 = 2 then .falling else .both
        quota := f m 4 0 8, allotment := f m 4 8 8, attemptsPerLevel := f m 4 16 8, startLevel := f m 4 24 4
        maxLevel := f m 4 28 4, dataLimit := dur m 8 0, configLimit := dur m 8 16, drainLimit := dur m 0xC 0
        resetHold := dur m 0xC 16, powerGoodLimit := dur m 0x10 0, stabilityDwell := dur m 0x10 16
        dischargeDwell := dur m 0x14 0, trainLimit := dur m 0x14 16, probeLimit := dur m 0x18 0
        decayPeriod := dur m 0x18 16, weightTimeout := f m 0x1C 0 8, weightLate := f m 0x1C 8 8
        weightStray := f m 0x1C 16 8, weightMalformed := f m 0x1C 24 8, weightLinkDown := f m 0x20 0 8
        weightAlert := f m 0x20 8 8, decayStep := f m 0x20 16 8, warn := f m 0x24 0 16, isolate := f m 0x24 16 16
        identity := w m 0x28, imageBase := (w m 0x2C).toNat, imageLength := (w m 0x30).toNat
        ringBase := (w m 0x34).toNat, ringCount := (w m 0x38).toNat }
    let c (m : Slot) : Settings := if s.leaderOf m = i then area m else (s.slot m).settings
    let u := s.underSettings c
    let ring (m : Slot) : AbortRing :=
      if (s.slot m).settings.ringBase = (c m).ringBase ∧ (s.slot m).settings.ringCount = (c m).ringCount then
        (s.slot m).ring
      else ⟨s.readHalf (slotBase m + 0x3C), (s.slot m).ring.notWritten, false⟩
    let quiet (st : SeqState) : Prop := st = .vacant ∨ st = .unpowered ∨ st = .isolated ∨ st = .failed
    let checked : Prop := quiet q.state ∧ (q.state = .unpowered → q.flight = .none ∨ q.flight = .autoRecover)
    let refused (r : Result) (detail : Word) : Prop :=
      ∃ t, exec (.configure i) s = .next t ∧ OrderAnswered i .configure r detail s t ∧
        sameMemory (orderAreas i s) s t ∧ sameSlots [] s t ∧ sameBlocks s t ∧ sameClock s t
    (¬checked → refused .busy 0) ∧
    (checked →
      (∀ (m : Slot) (k : Nat), s.leaderOf m = i → bad m = some k → (∀ j, s.leaderOf j = i → j < m → bad j = none) →
        refused .badSetting (packHalves k m.val)) ∧
      ((∀ m, s.leaderOf m = i → bad m = none) →
        ((c 7).join = true → refused .badSetting (packHalves 0x00 7)) ∧
        ((c 7).join = false →
          ((∃ l, u.leaderOf l = l ∧ s.arb.total < u.groupAllotment l) →
            ∃ l, u.leaderOf l = l ∧ s.arb.total < u.groupAllotment l ∧ refused .badSetting (packHalves 0x04 l.val)) ∧
          ((∀ l, u.leaderOf l = l → u.groupAllotment l ≤ s.arb.total) →
            let busy : Prop := ∃ m n : Slot, (c m).join ≠ (s.slot m).settings.join ∧ (n = m ∨ n.val = m.val + 1) ∧
              ¬((s.seqOf n).flight = .none ∧ quiet (s.seqOf n).state)
            let locked : Prop := ∃ l, s.reforms u l = true ∧ u.groupRail l = true ∧ u.groupLock l = true
            (busy → refused .busy 0) ∧
            (¬busy → locked → refused .locked 0) ∧
            (¬busy → ¬locked →
              ∃ t, exec (.configure i) s = .next t ∧ OrderAnswered i .configure .ok 0 s t ∧
                (∀ m l : Slot, t.leaderOf m = l ↔
                  l ≤ m ∧ (∀ k, l ≤ k → k < m → (c k).join = true) ∧ ∀ k, k.val + 1 = l.val → (c k).join = false) ∧
                (∀ m, s.reforms u (u.leaderOf m) = false →
                  t.slot m = { s.slot m with settings := c m, ring := ring m }) ∧
                (∀ l, s.reforms u l = true →
                  let st : SeqState := if u.groupPresent l then .unpowered else .vacant
                  let timers : List Timer := (u.members l).filterMap (fun m => (s.seqOf m).discharge) ++
                    (if u.groupRail l then [⟨s.timebase, (c l).dischargeDwell.micros⟩] else [])
                  (t.slot l).seq = { (s.slot l).seq with
                    state := st, flight := .none, destination := none, level := 0, attempts := 0, cause := .order
                    causeStamp := s.timebase, railKept := false, discharge := (t.slot l).seq.discharge
                    cancelPending := false, limit := none, probeLimitPassed := false, fixedOutcome := none
                    grant := none } ∧
                  ((t.slot l).seq.discharge = none ↔ timers = []) ∧
                  (∀ x, (t.slot l).seq.discharge = some x →
                    x ∈ timers ∧ ∀ y ∈ timers, y.remaining s.timebase ≤ x.remaining s.timebase) ∧
                  (∀ m, u.leaderOf m = l →
                    let x := (s.slot m).enters st s.timebase
                    (t.slot m).seq.allowance = (s.slot m).seq.allowance ∧
                    t.slot m = { x with
                      settings := c m, ring := ring m, seq := (t.slot m).seq
                      lines := { x.lines.cut with
                        resetAsserted := x.lines.resetAsserted || x.lines.rail, linkDisabled := false } }) ∧
                  GroupShown l u t) ∧
                (∀ m, ring m ≠ (s.slot m).ring → t.readHalf (slotBase m + 0x70) = (ring m).produce) ∧
                sameMemory
                  (((s.members i).map fun m => (slotBase m + 0x70, 2)) ++
                    ((allSlots.filter fun m => s.reforms u (u.leaderOf m)).map fun m => (slotBase m + 0x54, 16)) ++
                    orderAreas i s) s t ∧
                sameBlocks s t ∧ sameClock s t)))))

/-- R74, R87, R83: BRING_UP ends NO_CARD in VACANT and BUSY in the states that are neither rest nor FAILED, UNPOWERED
within an automatic sequence among them (R159 test 3). From UNPOWERED at rest and from FAILED with the rail off it
begins a ladder of start and max level 3: with the discharge timer running the group waits in UNPOWERED; with it stopped
it asks for its grant, and with no other waiter and room in the budget it is POWERING in the same event: its members'
retired tags are purged (R87 step 1, R41), its rails are on and its reset lines asserted, a member whose power-good
stands present is risen (R115, R116), and the granted sum is written (R121). From FAILED with the rail kept, the lock
lowers both levels to 2.The upper half of the word at 0x28 is written 0: the model's choice (assumption 19). -/
def Obligations.BringUpOrder : Prop :=
  ∀ (i : Slot) (s : State), Memory.wf s.mem = true → s.presents i .bringUp → s.admits i →
    let q := (s.slot i).seq
    let c := (s.slot i).settings
    let ladder : Sequencer := { q with flight := .bringUp, startLevel := 3, maxLevel := 3, attempts := 0, level := 3 }
    let amount := ((s.members i).map fun m => (s.slot m).settings.allotment).sum
    (q.state = .vacant →
      ∃ t, exec (.bringUp i) s = .next t ∧ OrderAnswered i .bringUp .noCard (levelDetail q) s t ∧
        sameMemory (orderAreas i s) s t ∧ sameSlots [] s t ∧ sameBlocks s t ∧ sameClock s t) ∧
    (q.state ≠ .vacant → (q.state = .unpowered → q.flight ≠ .none) → q.state ≠ .failed →
      ∃ t, exec (.bringUp i) s = .next t ∧ OrderAnswered i .bringUp .busy (levelDetail q) s t ∧
        sameMemory (orderAreas i s) s t ∧ sameSlots [] s t ∧ sameBlocks s t ∧ sameClock s t) ∧
    (s.restsAt i → (q.state = .unpowered ∨ q.state = .failed) → s.groupRail i = false → q.discharge ≠ none →
      ∃ t, exec (.bringUp i) s = .next t ∧ OrderBegun i .bringUp s t ∧
        AttemptBegun i 3 .order { ladder with level := q.level } s t ∧ GroupShown i s t ∧
        sameMemory (sequenceAreas i s) s t ∧ t.arb = s.arb ∧ t.engine = s.engine ∧ sameClock s t) ∧
    (s.restsAt i → (q.state = .unpowered ∨ q.state = .failed) → s.groupRail i = false → q.discharge = none →
      s.arb.waiters = [] →
      s.arb.granted + amount ≤ s.arb.total →
      ∃ t, exec (.bringUp i) s = .next t ∧ OrderBegun i .bringUp s t ∧
        (∀ m, s.leaderOf m = i →
          let x := (s.slot m).enters .powering s.timebase
          t.slot m = { x with
            lines := { x.lines.poweredOn c s.timebase with
              resetAsserted := true, indicator := (t.slot m).lines.indicator }
            seq := if m = i then
                { (ladder.enters .powering .sequence s.timebase) with
                  grant := some amount, limit := s.poweringLimit i }
              else (s.slot m).seq } ∧
          (t.slot m).lines.indicator.pattern = patternFor .powering (s.slot m).lines.locate) ∧
        t.prt = { s.prt with retired := s.prt.retired.filter fun k => decide (s.leaderOf k.slot ≠ i) } ∧
        t.arb = { s.arb with granted := s.arb.granted + amount } ∧
        t.readWord 0x28 = packBytes (s.arb.granted + amount) 0 0 0 ∧ GroupShown i s t ∧
        sameMemory ((0x28, 4) :: sequenceAreas i s) s t ∧ sameSlots (s.members i) s t ∧ t.engine = s.engine ∧
        sameClock s t) ∧
    (s.restsAt i → q.state = .failed → s.groupRail i = true →
      ∃ t, exec (.bringUp i) s = .next t ∧ OrderBegun i .bringUp s t ∧
        AttemptBegun i (clampLevel (s.groupLock i) 3) .order
          { q with
            flight := .bringUp, attempts := 0
            startLevel := clampLevel (s.groupLock i) 3, maxLevel := clampLevel (s.groupLock i) 3 } s t ∧
        GroupShown i s t ∧ sameMemory (sequenceAreas i s) s t ∧ t.arb = s.arb ∧ t.engine = s.engine ∧
        sameClock s t)

/-- R75, R80, R5: ISOLATE in ONLINE becomes the sequence in flight and drains the group to ISOLATED with cause ORDER,
answering held requests (here where nobody waits in the pool wait list but gates of the group, and without abort
records); with no FABRIC entry live the drain ends in the same event. In ISOLATED it ends OK and in every other state
BUSY, also within an automatic sequence, with the slot unchanged. -/
def Obligations.IsolateOrder : Prop :=
  ∀ (i : Slot) (s : State), Memory.wf s.mem = true → s.presents i .isolate → s.admits i →
    let q := (s.slot i).seq
    (s.restsAt i → q.state = .online → s.drainsPlainly i →
      ∃ u t : State, exec (.isolate i) s = .next t ∧ OrderBegun i .isolate s u ∧
        DrainingEntered i { q with flight := .isolate } .isolated .order s u ∧ DrainingBegun i i s u t ∧
        sameMemory (sequenceAreas i s) s u ∧ u.arb = s.arb ∧ u.engine = s.engine ∧ sameClock s u) ∧
    (q.state ≠ .online →
      ∃ t, exec (.isolate i) s = .next t ∧
        OrderAnswered i .isolate (if q.state = .isolated then .ok else .busy) (levelDetail q) s t ∧
        sameMemory (orderAreas i s) s t ∧ sameSlots [] s t ∧ sameBlocks s t ∧ sameClock s t)

/-- R76, R93, R61: RESUME in ISOLATED with every link up, reset line released and rail on puts the group ONLINE
with cause ORDER: attempts used 0, score and armed thresholds kept, a new decay phase for every member, and OK.
A member that is not ready ends it NOT_READY, every other state BUSY, also within an automatic sequence. -/
def Obligations.ResumeOrder : Prop :=
  ∀ (i : Slot) (s : State), Memory.wf s.mem = true → s.presents i .resume → s.admits i →
    let q := (s.slot i).seq
    let ready : Prop := ∀ m, s.leaderOf m = i →
      (s.slot m).lines.linkUp = true ∧ (s.slot m).lines.resetAsserted = false ∧ (s.slot m).lines.rail = true
    (s.restsAt i → q.state = .isolated → ready →
      ∃ t, exec (.resume i) s = .next t ∧ OrderEnded i .resume .ok 0 s t ∧
        (∀ m, s.leaderOf m = i →
          t.slot m = { (s.slot m).enters .online s.timebase with
            meter := { (s.slot m).meter with
              decay := some ⟨s.timebase, (s.slot m).settings.decayPeriod.micros, 0⟩ }
            seq := if m = i then { (q.enters .online .order s.timebase) with attempts := 0 } else (s.slot m).seq }) ∧
        sameSlots (s.members i) s t ∧ GroupShown i s t ∧
        sameMemory (noticeArea s :: sequenceAreas i s) s t ∧ sameBlocks s t ∧ sameClock s t) ∧
    (q.state ≠ .isolated ∨ ¬ready →
      ∃ t, exec (.resume i) s = .next t ∧
        OrderAnswered i .resume (if q.state = .isolated then .notReady else .busy) 0 s t ∧
        sameMemory (orderAreas i s) s t ∧ sameSlots [] s t ∧ sameBlocks s t ∧ sameClock s t)

/-- R77, R83: RECOVER forms its levels from its arguments, 0 standing for the working setting. An argument above 3, or a
start level above the max level, ends it BAD_SETTING with the argument's offset in the detail word. In ONLINE it drains
the group to the ladder, for which its levels are kept: the model's choice (assumption 23); held requests are answered
(here where nobody waits in the pool wait list but gates of the group, and without abort records), and with no FABRIC
entry live the drain ends in the same event. In ISOLATED, and in FAILED with rail kept, it begins a ladder, the lock
lowering 3 to 2 (here one whose first level is below 3 or waits for its discharge); in FAILED without rail kept it is
LOCKED under the lock and otherwise begins a ladder of level 3; outside ONLINE, ISOLATED and FAILED it ends BUSY, also
within an automatic recovery. That a bad argument ends it BAD_SETTING there too, in POWERING among them: the model's
choice (assumption 34). -/
def Obligations.RecoverOrder : Prop :=
  ∀ (i : Slot) (s : State), Memory.wf s.mem = true → s.presents i .recover → s.admits i →
    let q := (s.slot i).seq
    let c := (s.slot i).settings
    let a1 := (s.readWord (slotBase i + 0x44)).toNat
    let a2 := (s.readWord (slotBase i + 0x48)).toNat
    let start := if a1 = 0 then c.startLevel else a1
    let max := if a2 = 0 then c.maxLevel else a2
    ((3 < a1 ∨ 3 < a2 ∨ max < start) →
      ∃ t, exec (.recover i) s = .next t ∧
        OrderAnswered i .recover .badSetting
          (packHalves (if 3 < a1 then 0x44 else if 3 < a2 then 0x48 else 0x44) i.val) s t ∧
        sameMemory (orderAreas i s) s t ∧ sameSlots [] s t ∧ sameBlocks s t ∧ sameClock s t) ∧
    (a1 ≤ 3 → a2 ≤ 3 → start ≤ max →
      (s.restsAt i → q.state = .online → s.drainsPlainly i →
        ∃ u t : State, exec (.recover i) s = .next t ∧ OrderBegun i .recover s u ∧
          DrainingEntered i { q with flight := .recover, startLevel := start, maxLevel := max } .ladder .order s u ∧
          DrainingBegun i i s u t ∧ sameMemory (sequenceAreas i s) s u ∧ u.arb = s.arb ∧ u.engine = s.engine ∧
          sameClock s u) ∧
      (s.restsAt i → (q.state = .isolated ∨ (q.state = .failed ∧ q.railKept = true)) →
        (clampLevel (s.groupLock i) start ≤ 2 ∨ s.waitsDischarge i) →
        ∃ t, exec (.recover i) s = .next t ∧ OrderBegun i .recover s t ∧
          AttemptBegun i (clampLevel (s.groupLock i) start) .order
            { q with
              flight := .recover, attempts := 0
              startLevel := clampLevel (s.groupLock i) start, maxLevel := clampLevel (s.groupLock i) max } s t ∧
          GroupShown i s t ∧ sameMemory (sequenceAreas i s) s t ∧ t.arb = s.arb ∧ t.engine = s.engine ∧
          sameClock s t) ∧
      (q.state = .failed → q.railKept = false →
        (s.groupLock i = true →
          ∃ t, exec (.recover i) s = .next t ∧ OrderAnswered i .recover .locked (levelDetail q) s t ∧
            sameMemory (orderAreas i s) s t ∧ sameSlots [] s t ∧ sameBlocks s t ∧ sameClock s t) ∧
        (s.restsAt i → s.groupLock i = false → s.waitsDischarge i →
          ∃ t, exec (.recover i) s = .next t ∧ OrderBegun i .recover s t ∧
            AttemptBegun i 3 .order { q with flight := .recover, attempts := 0, startLevel := 3, maxLevel := 3 } s t ∧
            GroupShown i s t ∧ sameMemory (sequenceAreas i s) s t ∧ t.arb = s.arb ∧ t.engine = s.engine ∧
            sameClock s t)) ∧
      (q.state ≠ .online → q.state ≠ .isolated → q.state ≠ .failed →
        ∃ t, exec (.recover i) s = .next t ∧ OrderAnswered i .recover .busy (levelDetail q) s t ∧
          sameMemory (orderAreas i s) s t ∧ sameSlots [] s t ∧ sameBlocks s t ∧ sameClock s t))

/-- R78, R80, R5: POWER_DOWN under the keep-power lock ends LOCKED in the states that take it. Without the lock it
drains an ONLINE group to the power-off steps, answering held requests (here where nobody waits in the pool wait list
but gates of the group, and without abort records), and with no FABRIC entry live the drain ends in the same event. It
switches the group off in ISOLATED and FAILED: reset lines asserted, rails off with the discharge timer started,
UNPOWERED at rest with cause ORDER, and OK. In UNPOWERED at rest it ends OK with the slot unchanged; in a state that
does not take it, also within an automatic sequence, BUSY. -/
def Obligations.PowerDownOrder : Prop :=
  ∀ (i : Slot) (s : State), Memory.wf s.mem = true → s.presents i .powerDown → s.admits i →
    let q := (s.slot i).seq
    let off := ((q.discharges (s.groupRail i) (s.slot i).settings.dischargeDwell s.timebase).enters .unpowered .order s.timebase)
    (s.groupLock i = true → (q.state = .online ∨ q.state = .isolated ∨ q.state = .failed ∨ (q.state = .unpowered ∧ q.flight = .none)) →
      ∃ t, exec (.powerDown i) s = .next t ∧ OrderAnswered i .powerDown .locked (levelDetail q) s t ∧
        sameMemory (orderAreas i s) s t ∧ sameSlots [] s t ∧ sameBlocks s t ∧ sameClock s t) ∧
    (s.restsAt i → s.groupLock i = false → q.state = .online → s.drainsPlainly i →
      ∃ u t : State, exec (.powerDown i) s = .next t ∧ OrderBegun i .powerDown s u ∧
        DrainingEntered i { q with flight := .powerDown } .powerOff .order s u ∧ DrainingBegun i i s u t ∧
        sameMemory (sequenceAreas i s) s u ∧ u.arb = s.arb ∧ u.engine = s.engine ∧ sameClock s u) ∧
    (s.groupLock i = false → q.state = .unpowered → q.flight = .none →
      ∃ t, exec (.powerDown i) s = .next t ∧ OrderAnswered i .powerDown .ok (levelDetail q) s t ∧
        sameMemory (orderAreas i s) s t ∧ sameSlots [] s t ∧ sameBlocks s t ∧ sameClock s t) ∧
    (s.restsAt i → s.groupLock i = false → (q.state = .isolated ∨ q.state = .failed) →
      ∃ t, exec (.powerDown i) s = .next t ∧ OrderEnded i .powerDown .ok (levelDetail q) s t ∧
        GroupEntered i .unpowered off
          (fun n => { (if s.groupRail i then n.cut else n) with resetAsserted := true }) s t ∧
        GroupShown i s t ∧ sameMemory (noticeArea s :: sequenceAreas i s) s t ∧ sameBlocks s t ∧ sameClock s t) ∧
    (q.state ≠ .online → q.state ≠ .isolated → q.state ≠ .failed → (q.state = .unpowered → q.flight ≠ .none) →
      ∃ t, exec (.powerDown i) s = .next t ∧ OrderAnswered i .powerDown .busy (levelDetail q) s t ∧
        sameMemory (orderAreas i s) s t ∧ sameSlots [] s t ∧ sameBlocks s t ∧ sameClock s t)

/-- R100, R101, R160, Table 4-6: CANCEL ends IDLE with no sequence in flight and BUSY with a CANCEL that waits. In
DRAINING it becomes pending and the drain's destination ISOLATED, in RESETTING it becomes pending. In TRAINING it
is at its safe point: the group is ISOLATED with cause CANCELLED, the sequence in flight ends CANCELLED, an order with
its own result and notice and an automatic recovery with AUTO_RECOVERY_ENDED, and the CANCEL ends OK. So it is, with
UNPOWERED at rest as the state after, in UNPOWERED within a sequence, in AWAIT_POWER (here as the one waiter), which
leaves the grant wait list, and in POWERING (here with no waiter), which switches the rails off and returns the grant.
In PROBING (here with an empty pool wait list) the probe limit stops and the reads that wait are given up; with one
outstanding CANCEL waits for it, else this is the safe point. In RESTORING (here with no job of another group) a write
that is out is waited for, else every job is removed, its stop position written, at the safe point. A CANCEL that waits
for an automatic sequence has written PENDING. The upper half of the
word at 0x28 is written 0: the model's choice (assumption 19). -/
def Obligations.CancelOrder : Prop :=
  ∀ (i : Slot) (s : State), Memory.wf s.mem = true → s.presents i .cancel → s.leaderOf i = i →
    let q := (s.slot i).seq
    let taken : State := { s with regs := regsTaken i.val s.regs }
    let waits (more : List (Nat × Nat)) (t : State) : Prop :=
      t.regs = taken.regs ∧ t.readWord (slotBase i + 0x40) = 0 ∧
      (q.flight.isOrder = false → t.readWord (slotBase i + 0x50) = packHalves 1 7) ∧
      sameMemory ((slotBase i + 0x40, 4) :: ((if q.flight.isOrder then [] else [(slotBase i + 0x50, 4)]) ++ more)) s t ∧
      sameClock s t
    (s.restsAt i →
      ∃ t, exec (.cancel i) s = .next t ∧ OrderEnded i .cancel .idle 0 s t ∧
        sameMemory (orderAreas i s) s t ∧ sameSlots [] s t ∧ sameBlocks s t ∧ sameClock s t) ∧
    (q.flight ≠ .none → q.cancelPending = true →
      ∃ t, exec (.cancel i) s = .next t ∧ t.regs = regsAfterNotice .orderDone (regsTaken i.val s.regs) ∧
        noticeReads s t (packBytes 1 i.val 7 0) 3 0 ∧
        sameMemory [(slotBase i + 0x40, 4), noticeArea s] s t ∧ sameSlots [] s t ∧ sameBlocks s t ∧
        sameClock s t) ∧
    (q.flight ≠ .none → q.cancelPending = false → (q.state = .draining ∨ q.state = .resetting) →
      ∃ t, exec (.cancel i) s = .next t ∧ waits [] t ∧
        t.slot i = { s.slot i with seq := { q with
          cancelPending := true
          destination := if q.state = .draining then some .isolated else q.destination } } ∧
        sameSlots [i] s t ∧ sameBlocks s t) ∧
    (q.flight ≠ .none → q.cancelPending = false →
      let stops := (s.members i).map fun m => (slotBase m + 0x80, 4)
      let ends (st : SeqState) (from_ : Sequencer) (g : Lines → Lines) (more : List (Nat × Nat)) (t : State) : Prop :=
        GroupEntered i st { (from_.enters st .cancelled s.timebase) with flight := .none } g s t ∧
        CancelReported i q taken t ∧ t.readWord (slotBase i + 0x40) = 0 ∧ GroupShown i s t ∧
        sameMemory ((slotBase i + 0x40, 4) :: (more ++ cancelAreas i q taken)) s t ∧ sameClock s t
      (q.state = .training → ∃ t, exec (.cancel i) s = .next t ∧ ends .isolated q id [] t ∧ sameBlocks s t) ∧
      (q.state = .unpowered → ∃ t, exec (.cancel i) s = .next t ∧ ends .unpowered q id [] t ∧ sameBlocks s t) ∧
      (∀ n, q.state = .awaitPower → s.arb.waiters = [⟨i, n⟩] →
        ∃ t, exec (.cancel i) s = .next t ∧ ends .unpowered q id [(0x28, 4)] t ∧ t.prt = s.prt ∧ t.engine = s.engine ∧
          t.arb = { s.arb with waiters := [] } ∧ t.readWord 0x28 = packBytes s.arb.granted 0 0 0) ∧
      (∀ n, q.state = .powering → q.grant = some n → s.arb.waiters = [] →
        ∃ t, exec (.cancel i) s = .next t ∧
          ends .unpowered
            { (q.discharges (s.groupRail i) (s.slot i).settings.dischargeDwell s.timebase) with grant := none }
            (fun x => if s.groupRail i then x.cut else x) [(0x28, 4)] t ∧
          t.prt = s.prt ∧ t.engine = s.engine ∧ t.arb = { s.arb with granted := s.arb.granted - n } ∧
          (t.arb.granted ≠ s.arb.granted → t.readWord 0x28 = packBytes t.arb.granted 0 0 0)) ∧
      (q.state = .probing → s.prt.pool = [] →
        ((∀ m, s.leaderOf m = i → (s.slot m).probe ≠ some .outstanding) →
          ∃ t, exec (.cancel i) s = .next t ∧ ends .isolated q id [] t ∧ sameBlocks s t) ∧
        ((∃ m, s.leaderOf m = i ∧ (s.slot m).probe = some .outstanding) →
          ∃ t, exec (.cancel i) s = .next t ∧ waits [] t ∧
            (t.slot i).seq = { q with cancelPending := true, limit := none } ∧
            (∀ m, s.leaderOf m = i →
              ((s.slot m).probe = some .outstanding → (t.slot m).probe = some .outstanding) ∧
              (∀ r, (s.slot m).probe = some (.retryWait r) → (t.slot m).probe = some .answered)) ∧
            sameSlots (s.members i) s t ∧ sameBlocks s t)) ∧
      (q.state = .restoring → (∀ j ∈ s.engine.queue, s.leaderOf j.slot = i) →
        (∀ p ∈ s.engine.paused, s.leaderOf p.job.slot = i) →
        (s.engine.phase = .idle → s.engine.queue = [] →
          ∃ t, exec (.cancel i) s = .next t ∧ ends .isolated q id stops t ∧ t.prt = s.prt ∧ t.arb = s.arb ∧
            t.engine = { s.engine with paused := [] } ∧
            (∀ p, s.engine.paused = [p] →
              t.readWord (slotBase p.job.slot + 0x80) = BitVec.ofNat 32 p.job.position)) ∧
        (∀ j : Job, s.engine.phase = .writeOut → s.engine.queue = [j] →
          (∀ p ∈ s.engine.paused, p.job.slot ≠ j.slot) →
          ∃ t, exec (.cancel i) s = .next t ∧ waits stops t ∧
            t.slot i = { s.slot i with seq := { q with cancelPending := true } } ∧
            t.engine = { s.engine with queue := [{ j with removalPending := true }], paused := [] } ∧
            sameSlots [i] s t ∧ t.prt = s.prt ∧ t.arb = s.arb)))

/-- R68, R139, R137: REFILL at a leader with argument n sets the allowance to n, or to 15 when n is greater, and
writes it for every member. LOCATE, at any member's record, sets the LOCATE flag where its argument is not 0 and
clears it where it is 0, and the indicator takes the pattern that follows. Both end OK, also while an order of the
group is in flight. The model's choice (assumption 15): a LOCATE at a member's record leaves that record's result word
while the leader's order is in flight. -/
def Obligations.RefillAndLocate : Prop :=
  ∀ (i : Slot) (s : State), Memory.wf s.mem = true →
    let n := (s.readWord (slotBase i + 0x44)).toNat
    (s.presents i .refill → s.leaderOf i = i →
      ∃ t, exec (.refill i) s = .next t ∧ OrderAnswered i .refill .ok 0 s t ∧
        t.slot i = { s.slot i with seq := { (s.slot i).seq with allowance := if 15 < n then 15 else n } } ∧
        ((s.slot i).seq.allowance ≠ (if 15 < n then 15 else n) → GroupShown i s t) ∧
        sameMemory (noticeArea s :: sequenceAreas i s) s t ∧ sameSlots [i] s t ∧ sameBlocks s t ∧
        sameClock s t) ∧
    (s.presents i .locate →
      let flag := decide (n ≠ 0)
      ∃ t, exec (.locate i) s = .next t ∧ OrderAnswered i .locate .ok 0 s t ∧
        t.slot i = { s.slot i with lines := { (s.slot i).lines with
          locate := flag
          indicator := (s.slot i).lines.indicator.select (patternFor (s.stateOf i) flag) s.timebase } } ∧
        sameMemory (orderAreas i s) s t ∧ sameSlots [i] s t ∧ sameBlocks s t ∧ sameClock s t)

/-- R48, R49, Table 9-6: LIST_PENDING writes the slot's live count and, into the first six listing entries, its live
entries, oldest issue stamp first and the lower position first among those of one age; the rest of the listing is zero.
It ends OK with the live count as its detail word, also while an order of the group is in flight, and changes no entry.
The model's choices: at a member's record it leaves the result word while the leader's order is in flight (assumption
15), and it writes the upper half of the word with the live count with 0 (assumption 19). -/
def Obligations.ListPendingSnapshot : Prop :=
  ∀ (i : Slot) (s : State), Memory.wf s.mem = true → s.presents i .listPending →
    let a := slotBase i + 0x140
    let mine := s.prt.entries.filter fun x => x.2.slot == i
    let older (x y : Nat × Entry) : Prop :=
      age s.timebase y.2.issue < age s.timebase x.2.issue ∨
        (age s.timebase y.2.issue = age s.timebase x.2.issue ∧ x.1 ≤ y.1)
    ∃ t, exec (.listPending i) s = .next t ∧
      OrderAnswered i .listPending .ok (BitVec.ofNat 32 mine.length) s t ∧
      t.readWord (slotBase i + 0x84) = packHalves mine.length 0 ∧
      (∃ listed : List (Nat × Entry), listed.Perm mine ∧ listed.Pairwise older ∧
        ∀ (n p : Nat) (e : Entry), n < 6 → listed[n]? = some (p, e) →
          let b := a + 32 * n
          t.readWord b = packHalves (e.origin.code + 256 * requestKindCode e.kind) e.requester.toNat ∧
          t.readWord (b + 4) = packHalves e.tag.toNat e.length ∧
          t.readWord (b + 8) = (requestTarget e.kind).setWidth 32 ∧
          t.readWord (b + 12) = (requestTarget e.kind >>> 32).setWidth 32 ∧
          t.readWord (b + 16) = BitVec.ofNat 32 e.owed ∧ t.readWord (b + 20) = e.issue ∧
          t.readWord (b + 24) = e.progress ∧ t.readWord (b + 28) = s.timebase - e.progress) ∧
      (∀ k, 32 * mine.length ≤ k → k < 192 → t.readByte (a + k) = 0) ∧
      sameMemory ((slotBase i + 0x84, 4) :: (a, 192) :: orderAreas i s) s t ∧ sameSlots [] s t ∧ sameBlocks s t ∧
      sameClock s t

/-- R126: SET_COMMON ends BAD_SETTING on a total of 0, a mode above 1, or a burst length outside 1 to 64, and when
some group's allotment sum is above the total; BUSY when the total is below the granted sum; else it latches the
four settings, writes them, and ends OK. (The waiters are examined after it: here none waits.) -/
def Obligations.SetCommonOrder : Prop :=
  ∀ s : State, Memory.wf s.mem = true → s.regs.ready = true → s.regs.run = true →
    s.regs.attention.getLsbD 8 = true → (s.readWord 0x10).toNat = 16 → s.arb.waiters = [] →
    let w := s.readWord 0
    let total := (w.extractLsb' 0 8).toNat
    let arb := (w.extractLsb' 8 8).toNat
    let mode := (w.extractLsb' 16 8).toNat
    let burst := (w.extractLsb' 24 8).toNat
    let result : Result :=
      if total = 0 ∨ 1 < arb ∨ 1 < mode ∨ burst = 0 ∨ 64 < burst then .badSetting
      else if ∃ i, total < s.groupAllotment (s.leaderOf i) then .badSetting
      else if total < s.arb.granted then .busy
      else .ok
    ∃ t, exec .setCommon s = .next t ∧
      t.regs = regsAfterNotice .orderDone (regsTaken 8 s.regs) ∧ t.readWord 0x10 = 0 ∧
      t.readWord 0x20 = packHalves result.code 16 ∧
      noticeReads s t (packBytes 1 15 16 0) (BitVec.ofNat 32 result.code) 0 ∧
      sameMemory [(0x10, 4), (0x20, 4), (0x24, 4), (0x28, 4), noticeArea s] s t ∧ sameSlots [] s t ∧
      t.prt = s.prt ∧ sameClock s t ∧
      (result ≠ .ok → t.arb = s.arb ∧ t.engine = s.engine ∧ t.readWord 0x24 = s.readWord 0x24) ∧
      (result = .ok →
        t.arb = { s.arb with total := total, mode := if arb = 0 then .arrival else .slotOrder } ∧
        t.engine = { s.engine with mode := if mode = 0 then .sequential else .rotate, burstLength := burst } ∧
        t.readWord 0x24 = w)

/-! ### The register window and the resets -/

/-- R155, R172, R170: with READY set a write of CONTROL takes RUN and INT_ENABLE from bits 0 and 1; with bit 2 at 1
it is a control reset, which clears RUN, INT_ENABLE, ATTENTION, CAUSE, NOTICE_MASK and both notice indices and
changes nothing else. Before READY it is ignored. The model's choice (assumption 28): CONTROL_RESET of any word, also
one with bit 2 at 0, is CONTROL_WRITE of it. -/
def Obligations.ControlRegisterWritten : Prop :=
  ∀ (v : Word) (s : State),
    exec (.controlReset v) s = exec (.controlWrite v) s ∧
    (s.regs.ready = false → exec (.controlWrite v) s = .next s) ∧
    (s.regs.ready = true → v.getLsbD 2 = false →
      exec (.controlWrite v) s =
        .next { s with regs := { s.regs with run := v.getLsbD 0, intEnable := v.getLsbD 1 } }) ∧
    (s.regs.ready = true → v.getLsbD 2 = true →
      exec (.controlWrite v) s = .next { s with regs := { s.regs with
        run := false, intEnable := false, attention := 0, cause := 0, noticeMask := 0, produce := 0, consume := 0 } })

/-- R157, R166, R165, R155, R170: ATTENTION gains the bits 8:0 written as 1; a read of CAUSE returns and clears it;
NOTICE_CONSUME takes bits 15:0 when at most 128 notices would wait and else stays; NOTICE_MASK takes bits 7:0;
the four read-only registers ignore a write. Before READY writes are ignored and CAUSE reads 0. The model's choice
(assumption 4): a host store to exchange memory is a form of REGISTER_WRITE; it changes the addressed bytes
alone. -/
def Obligations.HostRegisterCommands : Prop :=
  ∀ (v : Word) (s : State),
    (s.regs.ready = true →
      (∃ t, exec (.attentionWrite v) s = .next t ∧
        (∀ k, k < 9 → t.regs.attention.getLsbD k = (s.regs.attention.getLsbD k || v.getLsbD k)) ∧
        t = { s with regs := { s.regs with attention := t.regs.attention } }) ∧
      exec .causeRead s =
        .next { s with regs := { s.regs with readData := some (s.regs.cause.setWidth 32), cause := 0 } } ∧
      ((s.regs.produce - v.setWidth 16).toNat ≤ 128 →
        exec (.noticeConsumeWrite v) s = .next { s with regs := { s.regs with consume := v.setWidth 16 } }) ∧
      (128 < (s.regs.produce - v.setWidth 16).toNat → exec (.noticeConsumeWrite v) s = .next s) ∧
      exec (.registerWrite .noticeMask v) s = .next { s with regs := { s.regs with noticeMask := v.setWidth 8 } } ∧
      (∀ x : PlainTarget, x = .ident ∨ x = .cause ∨ x = .noticeProduce ∨ x = .timebase →
        exec (.registerWrite x v) s = .next s) ∧
      (∀ a : Half, Memory.wf s.mem = true →
        ∃ t, exec (.registerWrite (.exchangeByte a) v) s = .next t ∧ t.readByte a.toNat = v.setWidth 8 ∧
          sameMemory [(a.toNat, 1)] s t ∧ sameSlots [] s t ∧ t.regs = s.regs ∧ sameBlocks s t ∧ sameClock s t) ∧
      (∀ a : Half, a.toNat % 4 = 0 → Memory.wf s.mem = true →
        ∃ t, exec (.registerWrite (.exchangeWord a) v) s = .next t ∧ t.readWord a.toNat = v ∧
          sameMemory [(a.toNat, 4)] s t ∧ sameSlots [] s t ∧ t.regs = s.regs ∧ sameBlocks s t ∧ sameClock s t)) ∧
    (s.regs.ready = false →
      exec (.attentionWrite v) s = .next s ∧ exec (.noticeConsumeWrite v) s = .next s ∧
      (∀ x : PlainTarget, exec (.registerWrite x v) s = .next s) ∧
      exec .causeRead s = .next { s with regs := { s.regs with readData := some 0 } })

/-- R170, R171, R71, R51, R21, R162, Tables 9-10 and 10-1: a power-on reset puts every block at its initial value at the
inputs' levels. The model's choice: the commands that wait and the model's draw counter stay (assumption 21), the
risen mark and the dwell are clear (assumption 35), and the burst count and the count of a steady indicator are 0
(assumption 39). READY is set once. Without AUTOSTART the event writes the initial
outcome fields of every slot and the latched common settings, and nothing else of the part changes. With AUTOSTART,
after a power-on reset, every present slot begins a BRING_UP: its result is PENDING, and it is granted its 16 units and
POWERING in the same event; an absent slot stays VACANT. -/
def Obligations.PowerOnResetAndReady : Prop :=
  (∀ (l : InputLevels) (s : State),
    ∃ t, exec (.powerOnReset l) s = .next t ∧ t.pending = s.pending ∧ t.draws = s.draws ∧
      t.timebase = 0 ∧ t.mem = [] ∧ t.prt = ⟨[], [], [], none⟩ ∧ t.arb = ⟨128, .arrival, 0, []⟩ ∧
      t.engine = ⟨.sequential, 8, [], [], .idle, 0⟩ ∧
      t.regs = ⟨false, l.autostart, false, false, 0, 0, 0, 0, 0, 0, none⟩ ∧
      ∀ i : Slot,
        (t.slot i).settings =
          { join := false, lock := false, ones := false, policy := .isolate, alertSelect := .none, quota := 12
            allotment := 16, attemptsPerLevel := 2, startLevel := 1, maxLevel := 3, dataLimit := ⟨64, 1⟩
            configLimit := ⟨0, 2⟩, drainLimit := ⟨32, 2⟩, resetHold := ⟨25, 2⟩, powerGoodLimit := ⟨50, 2⟩
            stabilityDwell := ⟨25, 2⟩, dischargeDwell := ⟨8, 3⟩, trainLimit := ⟨25, 2⟩, probeLimit := ⟨16, 3⟩
            decayPeriod := ⟨16, 3⟩, weightTimeout := 64, weightLate := 16, weightStray := 16, weightMalformed := 32
            weightLinkDown := 255, weightAlert := 32, decayStep := 8, warn := 128, isolate := 256, identity := 0
            imageBase := 0, imageLength := 0, ringBase := 0, ringCount := 0 } ∧
        (t.slot i).gate = ⟨none, [], 0, 0⟩ ∧ (t.slot i).ring = ⟨0, 0, false⟩ ∧
        (t.slot i).meter = ⟨0, true, true, none, ⟨0, 0, 0, 0, 0, 0⟩⟩ ∧
        (t.slot i).seq =
          { state := if l.present.getLsbD i then .unpowered else .vacant
            flight := .none, destination := none, level := 0, startLevel := 1, maxLevel := 3, attempts := 0
            allowance := 3, cause := .powerOn, causeStamp := 0, railKept := false, discharge := none
            cancelPending := false, limit := none, probeLimitPassed := false, fixedOutcome := none, grant := none } ∧
        (t.slot i).lines =
          { rail := false, powerGood := l.powerGood.getLsbD i, resetAsserted := true, clock := false
            linkDisabled := false, linkUp := false, present := l.present.getLsbD i, alert := l.alert.getLsbD i
            locate := false, indicator := ⟨.off, false, 0⟩, risen := false, dwell := none, dwellEnded := false } ∧
        (t.slot i).probe = none ∧ (t.slot i).hostOut = [] ∧ (t.slot i).cardOut = []) ∧
  (∀ s : State, s.regs.ready = true → exec .ready s = .next s) ∧
  (∀ s : State, s.regs.ready = false → s.regs.autostart = false → Memory.wf s.mem = true →
    ∃ t, exec .ready s = .next t ∧ t.regs = { s.regs with ready := true } ∧
      (∀ i, t.readWord (slotBase i + 0x54) =
          packBytes (s.seqOf i).state.code (s.seqOf i).level (s.seqOf i).attempts (s.seqOf i).allowance ∧
        t.readHalf (slotBase i + 0x5A) =
          BitVec.ofNat 16 ((if (s.slot i).lines.linkUp then 1 else 0) + (if (s.seqOf i).railKept then 2 else 0)) ∧
        t.readWord (slotBase i + 0x5C) = packHalves (s.seqOf i).cause.code 0 ∧
        t.readWord (slotBase i + 0x60) = (s.seqOf i).causeStamp ∧
        t.readWord (slotBase i + 0x74) = BitVec.ofNat 32 (s.slot i).gate.postedDiscarded ∧
        t.readWord (slotBase i + 0x78) = BitVec.ofNat 32 (s.slot i).gate.cardDiscarded) ∧
      t.readWord 0x24 = packBytes s.arb.total s.arb.mode.code s.engine.mode.code s.engine.burstLength ∧
      sameMemory ((0x24, 4) :: allSlots.flatMap fun i => [(slotBase i + 0x54, 16), (slotBase i + 0x74, 8)]) s t ∧
      sameSlots [] s t ∧ sameBlocks s t ∧ sameClock s t) ∧
  (∀ (l : InputLevels) (s : State), l.autostart = true → exec (.powerOnReset l) s = .next s →
    ∃ t, exec .ready s = .next t ∧ t.regs = { s.regs with ready := true } ∧
      (∀ i : Slot,
        (l.present.getLsbD i = true →
          (t.slot i).seq = { (s.slot i).seq with
            state := .powering, flight := .bringUp, level := 3, startLevel := 3, maxLevel := 3, cause := .sequence
            grant := some 16, limit := if l.powerGood.getLsbD i then none else some ⟨0, 204800⟩ } ∧
          (t.slot i).lines.rail = true ∧ t.readWord (slotBase i + 0x50) = 0x00020001) ∧
        (l.present.getLsbD i = false → t.slot i = s.slot i ∧ t.readWord (slotBase i + 0x50) = 0) ∧
        t.readWord (slotBase i + 0x54) = packBytes (t.slot i).seq.state.code (t.slot i).seq.level 0 3 ∧
        t.readWord (slotBase i + 0x60) = 0) ∧
      t.arb = { s.arb with granted := 16 * (allSlots.filter fun i : Slot => l.present.getLsbD i).length } ∧
      t.readWord 0x28 = packBytes t.arb.granted 0 0 0 ∧ t.prt = s.prt ∧ t.engine = s.engine ∧ sameClock s t)
end

