-- ==== Sys2Proof/Laws/State.lean ====
section
/-! SUPPORT. One lemma for each field of each update of the state, so that no proof unfolds a record
update. -/

namespace Sys2Proof.Machine

/-! ### Slots -/

/-- A slot's record is the vector's element. -/
theorem State.slot_eq (s : State) (i : Slot) : s.slot i = s.slots[i.val] := rfl

/-- A slot's record after a change of slot `i`'s record. -/
@[simp] theorem State.modSlot_slot (s : State) (i j : Slot) (f : SlotRec → SlotRec) :
    (s.modSlot i f).slot j = if j = i then f (s.slot i) else s.slot j := by
  rw [State.slot_eq, State.slot_eq s j]
  show (s.slots.set i.val (f (s.slot i)) i.isLt)[j.val] = _
  rw [Vector.getElem_set]
  by_cases h : j = i
  · subst h; simp
  · have h2 : ¬ i.val = j.val := fun e => h (Fin.ext e.symm)
    rw [if_neg h2, if_neg h]

/-! ### State.modSlot -/

@[simp] theorem State.modSlot_pending (s : State) (i : Slot) (f : SlotRec → SlotRec) : (s.modSlot i f).pending = s.pending := rfl
@[simp] theorem State.modSlot_timebase (s : State) (i : Slot) (f : SlotRec → SlotRec) : (s.modSlot i f).timebase = s.timebase := rfl
@[simp] theorem State.modSlot_regs (s : State) (i : Slot) (f : SlotRec → SlotRec) : (s.modSlot i f).regs = s.regs := rfl
@[simp] theorem State.modSlot_mem (s : State) (i : Slot) (f : SlotRec → SlotRec) : (s.modSlot i f).mem = s.mem := rfl
@[simp] theorem State.modSlot_prt (s : State) (i : Slot) (f : SlotRec → SlotRec) : (s.modSlot i f).prt = s.prt := rfl
@[simp] theorem State.modSlot_arb (s : State) (i : Slot) (f : SlotRec → SlotRec) : (s.modSlot i f).arb = s.arb := rfl
@[simp] theorem State.modSlot_engine (s : State) (i : Slot) (f : SlotRec → SlotRec) : (s.modSlot i f).engine = s.engine := rfl
@[simp] theorem State.modSlot_draws (s : State) (i : Slot) (f : SlotRec → SlotRec) : (s.modSlot i f).draws = s.draws := rfl

/-! ### State.modSeq -/

@[simp] theorem State.modSeq_pending (s : State) (i : Slot) (f : Sequencer → Sequencer) : (s.modSeq i f).pending = s.pending := rfl
@[simp] theorem State.modSeq_timebase (s : State) (i : Slot) (f : Sequencer → Sequencer) : (s.modSeq i f).timebase = s.timebase := rfl
@[simp] theorem State.modSeq_regs (s : State) (i : Slot) (f : Sequencer → Sequencer) : (s.modSeq i f).regs = s.regs := rfl
@[simp] theorem State.modSeq_mem (s : State) (i : Slot) (f : Sequencer → Sequencer) : (s.modSeq i f).mem = s.mem := rfl
@[simp] theorem State.modSeq_prt (s : State) (i : Slot) (f : Sequencer → Sequencer) : (s.modSeq i f).prt = s.prt := rfl
@[simp] theorem State.modSeq_arb (s : State) (i : Slot) (f : Sequencer → Sequencer) : (s.modSeq i f).arb = s.arb := rfl
@[simp] theorem State.modSeq_engine (s : State) (i : Slot) (f : Sequencer → Sequencer) : (s.modSeq i f).engine = s.engine := rfl
@[simp] theorem State.modSeq_draws (s : State) (i : Slot) (f : Sequencer → Sequencer) : (s.modSeq i f).draws = s.draws := rfl

@[simp] theorem State.modSeq_slot (s : State) (i j : Slot) (f : Sequencer → Sequencer) :
    (s.modSeq i f).slot j = if j = i then { s.slot i with seq := f (s.slot i).seq } else s.slot j := by
  simp [State.modSeq]

/-! ### State.modLines -/

@[simp] theorem State.modLines_pending (s : State) (i : Slot) (f : Lines → Lines) : (s.modLines i f).pending = s.pending := rfl
@[simp] theorem State.modLines_timebase (s : State) (i : Slot) (f : Lines → Lines) : (s.modLines i f).timebase = s.timebase := rfl
@[simp] theorem State.modLines_regs (s : State) (i : Slot) (f : Lines → Lines) : (s.modLines i f).regs = s.regs := rfl
@[simp] theorem State.modLines_mem (s : State) (i : Slot) (f : Lines → Lines) : (s.modLines i f).mem = s.mem := rfl
@[simp] theorem State.modLines_prt (s : State) (i : Slot) (f : Lines → Lines) : (s.modLines i f).prt = s.prt := rfl
@[simp] theorem State.modLines_arb (s : State) (i : Slot) (f : Lines → Lines) : (s.modLines i f).arb = s.arb := rfl
@[simp] theorem State.modLines_engine (s : State) (i : Slot) (f : Lines → Lines) : (s.modLines i f).engine = s.engine := rfl
@[simp] theorem State.modLines_draws (s : State) (i : Slot) (f : Lines → Lines) : (s.modLines i f).draws = s.draws := rfl

@[simp] theorem State.modLines_slot (s : State) (i j : Slot) (f : Lines → Lines) :
    (s.modLines i f).slot j = if j = i then { s.slot i with lines := f (s.slot i).lines } else s.slot j := by
  simp [State.modLines]

/-! ### State.modGate -/

@[simp] theorem State.modGate_pending (s : State) (i : Slot) (f : Gate → Gate) : (s.modGate i f).pending = s.pending := rfl
@[simp] theorem State.modGate_timebase (s : State) (i : Slot) (f : Gate → Gate) : (s.modGate i f).timebase = s.timebase := rfl
@[simp] theorem State.modGate_regs (s : State) (i : Slot) (f : Gate → Gate) : (s.modGate i f).regs = s.regs := rfl
@[simp] theorem State.modGate_mem (s : State) (i : Slot) (f : Gate → Gate) : (s.modGate i f).mem = s.mem := rfl
@[simp] theorem State.modGate_prt (s : State) (i : Slot) (f : Gate → Gate) : (s.modGate i f).prt = s.prt := rfl
@[simp] theorem State.modGate_arb (s : State) (i : Slot) (f : Gate → Gate) : (s.modGate i f).arb = s.arb := rfl
@[simp] theorem State.modGate_engine (s : State) (i : Slot) (f : Gate → Gate) : (s.modGate i f).engine = s.engine := rfl
@[simp] theorem State.modGate_draws (s : State) (i : Slot) (f : Gate → Gate) : (s.modGate i f).draws = s.draws := rfl

@[simp] theorem State.modGate_slot (s : State) (i j : Slot) (f : Gate → Gate) :
    (s.modGate i f).slot j = if j = i then { s.slot i with gate := f (s.slot i).gate } else s.slot j := by
  simp [State.modGate]

/-! ### State.modMeter -/

@[simp] theorem State.modMeter_pending (s : State) (i : Slot) (f : Meter → Meter) : (s.modMeter i f).pending = s.pending := rfl
@[simp] theorem State.modMeter_timebase (s : State) (i : Slot) (f : Meter → Meter) : (s.modMeter i f).timebase = s.timebase := rfl
@[simp] theorem State.modMeter_regs (s : State) (i : Slot) (f : Meter → Meter) : (s.modMeter i f).regs = s.regs := rfl
@[simp] theorem State.modMeter_mem (s : State) (i : Slot) (f : Meter → Meter) : (s.modMeter i f).mem = s.mem := rfl
@[simp] theorem State.modMeter_prt (s : State) (i : Slot) (f : Meter → Meter) : (s.modMeter i f).prt = s.prt := rfl
@[simp] theorem State.modMeter_arb (s : State) (i : Slot) (f : Meter → Meter) : (s.modMeter i f).arb = s.arb := rfl
@[simp] theorem State.modMeter_engine (s : State) (i : Slot) (f : Meter → Meter) : (s.modMeter i f).engine = s.engine := rfl
@[simp] theorem State.modMeter_draws (s : State) (i : Slot) (f : Meter → Meter) : (s.modMeter i f).draws = s.draws := rfl

@[simp] theorem State.modMeter_slot (s : State) (i j : Slot) (f : Meter → Meter) :
    (s.modMeter i f).slot j = if j = i then { s.slot i with meter := f (s.slot i).meter } else s.slot j := by
  simp [State.modMeter]

/-! ### State.modRing -/

@[simp] theorem State.modRing_pending (s : State) (i : Slot) (f : AbortRing → AbortRing) : (s.modRing i f).pending = s.pending := rfl
@[simp] theorem State.modRing_timebase (s : State) (i : Slot) (f : AbortRing → AbortRing) : (s.modRing i f).timebase = s.timebase := rfl
@[simp] theorem State.modRing_regs (s : State) (i : Slot) (f : AbortRing → AbortRing) : (s.modRing i f).regs = s.regs := rfl
@[simp] theorem State.modRing_mem (s : State) (i : Slot) (f : AbortRing → AbortRing) : (s.modRing i f).mem = s.mem := rfl
@[simp] theorem State.modRing_prt (s : State) (i : Slot) (f : AbortRing → AbortRing) : (s.modRing i f).prt = s.prt := rfl
@[simp] theorem State.modRing_arb (s : State) (i : Slot) (f : AbortRing → AbortRing) : (s.modRing i f).arb = s.arb := rfl
@[simp] theorem State.modRing_engine (s : State) (i : Slot) (f : AbortRing → AbortRing) : (s.modRing i f).engine = s.engine := rfl
@[simp] theorem State.modRing_draws (s : State) (i : Slot) (f : AbortRing → AbortRing) : (s.modRing i f).draws = s.draws := rfl

@[simp] theorem State.modRing_slot (s : State) (i j : Slot) (f : AbortRing → AbortRing) :
    (s.modRing i f).slot j = if j = i then { s.slot i with ring := f (s.slot i).ring } else s.slot j := by
  simp [State.modRing]

/-! ### State.setProbe -/

@[simp] theorem State.setProbe_pending (s : State) (i : Slot) (p : Option ProbeState) : (s.setProbe i p).pending = s.pending := rfl
@[simp] theorem State.setProbe_timebase (s : State) (i : Slot) (p : Option ProbeState) : (s.setProbe i p).timebase = s.timebase := rfl
@[simp] theorem State.setProbe_regs (s : State) (i : Slot) (p : Option ProbeState) : (s.setProbe i p).regs = s.regs := rfl
@[simp] theorem State.setProbe_mem (s : State) (i : Slot) (p : Option ProbeState) : (s.setProbe i p).mem = s.mem := rfl
@[simp] theorem State.setProbe_prt (s : State) (i : Slot) (p : Option ProbeState) : (s.setProbe i p).prt = s.prt := rfl
@[simp] theorem State.setProbe_arb (s : State) (i : Slot) (p : Option ProbeState) : (s.setProbe i p).arb = s.arb := rfl
@[simp] theorem State.setProbe_engine (s : State) (i : Slot) (p : Option ProbeState) : (s.setProbe i p).engine = s.engine := rfl
@[simp] theorem State.setProbe_draws (s : State) (i : Slot) (p : Option ProbeState) : (s.setProbe i p).draws = s.draws := rfl

@[simp] theorem State.setProbe_slot (s : State) (i j : Slot) (p : Option ProbeState) :
    (s.setProbe i p).slot j = if j = i then { s.slot i with probe := p } else s.slot j := by
  simp [State.setProbe]

/-! ### sendCard -/

@[simp] theorem sendCard_pending (i : Slot) (x : PortItem) (s : State) : (sendCard i x s).pending = s.pending := rfl
@[simp] theorem sendCard_timebase (i : Slot) (x : PortItem) (s : State) : (sendCard i x s).timebase = s.timebase := rfl
@[simp] theorem sendCard_regs (i : Slot) (x : PortItem) (s : State) : (sendCard i x s).regs = s.regs := rfl
@[simp] theorem sendCard_mem (i : Slot) (x : PortItem) (s : State) : (sendCard i x s).mem = s.mem := rfl
@[simp] theorem sendCard_prt (i : Slot) (x : PortItem) (s : State) : (sendCard i x s).prt = s.prt := rfl
@[simp] theorem sendCard_arb (i : Slot) (x : PortItem) (s : State) : (sendCard i x s).arb = s.arb := rfl
@[simp] theorem sendCard_engine (i : Slot) (x : PortItem) (s : State) : (sendCard i x s).engine = s.engine := rfl
@[simp] theorem sendCard_draws (i : Slot) (x : PortItem) (s : State) : (sendCard i x s).draws = s.draws := rfl

@[simp] theorem sendCard_slot (i j : Slot) (x : PortItem) (s : State) :
    (sendCard i x s).slot j = if j = i then { s.slot i with cardOut := (s.slot i).cardOut ++ [x] } else s.slot j := by
  simp [sendCard]

/-! ### sendHost -/

@[simp] theorem sendHost_pending (i : Slot) (x : PortItem) (s : State) : (sendHost i x s).pending = s.pending := rfl
@[simp] theorem sendHost_timebase (i : Slot) (x : PortItem) (s : State) : (sendHost i x s).timebase = s.timebase := rfl
@[simp] theorem sendHost_regs (i : Slot) (x : PortItem) (s : State) : (sendHost i x s).regs = s.regs := rfl
@[simp] theorem sendHost_mem (i : Slot) (x : PortItem) (s : State) : (sendHost i x s).mem = s.mem := rfl
@[simp] theorem sendHost_prt (i : Slot) (x : PortItem) (s : State) : (sendHost i x s).prt = s.prt := rfl
@[simp] theorem sendHost_arb (i : Slot) (x : PortItem) (s : State) : (sendHost i x s).arb = s.arb := rfl
@[simp] theorem sendHost_engine (i : Slot) (x : PortItem) (s : State) : (sendHost i x s).engine = s.engine := rfl
@[simp] theorem sendHost_draws (i : Slot) (x : PortItem) (s : State) : (sendHost i x s).draws = s.draws := rfl

@[simp] theorem sendHost_slot (i j : Slot) (x : PortItem) (s : State) :
    (sendHost i x s).slot j = if j = i then { s.slot i with hostOut := (s.slot i).hostOut ++ [x] } else s.slot j := by
  simp [sendHost]

/-! ### State.modPrt -/

@[simp] theorem State.modPrt_pending (s : State) (f : PrtState → PrtState) : (s.modPrt f).pending = s.pending := rfl
@[simp] theorem State.modPrt_timebase (s : State) (f : PrtState → PrtState) : (s.modPrt f).timebase = s.timebase := rfl
@[simp] theorem State.modPrt_regs (s : State) (f : PrtState → PrtState) : (s.modPrt f).regs = s.regs := rfl
@[simp] theorem State.modPrt_mem (s : State) (f : PrtState → PrtState) : (s.modPrt f).mem = s.mem := rfl
@[simp] theorem State.modPrt_slots (s : State) (f : PrtState → PrtState) : (s.modPrt f).slots = s.slots := rfl
@[simp] theorem State.modPrt_arb (s : State) (f : PrtState → PrtState) : (s.modPrt f).arb = s.arb := rfl
@[simp] theorem State.modPrt_engine (s : State) (f : PrtState → PrtState) : (s.modPrt f).engine = s.engine := rfl
@[simp] theorem State.modPrt_draws (s : State) (f : PrtState → PrtState) : (s.modPrt f).draws = s.draws := rfl
@[simp] theorem State.modPrt_slot (s : State) (f : PrtState → PrtState) (j : Slot) : (s.modPrt f).slot j = s.slot j := rfl

@[simp] theorem State.modPrt_prt (s : State) (f : PrtState → PrtState) : (s.modPrt f).prt = f s.prt := rfl

/-! ### State.modEngine -/

@[simp] theorem State.modEngine_pending (s : State) (f : Engine → Engine) : (s.modEngine f).pending = s.pending := rfl
@[simp] theorem State.modEngine_timebase (s : State) (f : Engine → Engine) : (s.modEngine f).timebase = s.timebase := rfl
@[simp] theorem State.modEngine_regs (s : State) (f : Engine → Engine) : (s.modEngine f).regs = s.regs := rfl
@[simp] theorem State.modEngine_mem (s : State) (f : Engine → Engine) : (s.modEngine f).mem = s.mem := rfl
@[simp] theorem State.modEngine_slots (s : State) (f : Engine → Engine) : (s.modEngine f).slots = s.slots := rfl
@[simp] theorem State.modEngine_prt (s : State) (f : Engine → Engine) : (s.modEngine f).prt = s.prt := rfl
@[simp] theorem State.modEngine_arb (s : State) (f : Engine → Engine) : (s.modEngine f).arb = s.arb := rfl
@[simp] theorem State.modEngine_draws (s : State) (f : Engine → Engine) : (s.modEngine f).draws = s.draws := rfl
@[simp] theorem State.modEngine_slot (s : State) (f : Engine → Engine) (j : Slot) : (s.modEngine f).slot j = s.slot j := rfl

@[simp] theorem State.modEngine_engine (s : State) (f : Engine → Engine) :
    (s.modEngine f).engine = f s.engine := rfl

/-! ### State.modRegs -/

@[simp] theorem State.modRegs_pending (s : State) (f : HostRegs → HostRegs) : (s.modRegs f).pending = s.pending := rfl
@[simp] theorem State.modRegs_timebase (s : State) (f : HostRegs → HostRegs) : (s.modRegs f).timebase = s.timebase := rfl
@[simp] theorem State.modRegs_mem (s : State) (f : HostRegs → HostRegs) : (s.modRegs f).mem = s.mem := rfl
@[simp] theorem State.modRegs_slots (s : State) (f : HostRegs → HostRegs) : (s.modRegs f).slots = s.slots := rfl
@[simp] theorem State.modRegs_prt (s : State) (f : HostRegs → HostRegs) : (s.modRegs f).prt = s.prt := rfl
@[simp] theorem State.modRegs_arb (s : State) (f : HostRegs → HostRegs) : (s.modRegs f).arb = s.arb := rfl
@[simp] theorem State.modRegs_engine (s : State) (f : HostRegs → HostRegs) : (s.modRegs f).engine = s.engine := rfl
@[simp] theorem State.modRegs_draws (s : State) (f : HostRegs → HostRegs) : (s.modRegs f).draws = s.draws := rfl
@[simp] theorem State.modRegs_slot (s : State) (f : HostRegs → HostRegs) (j : Slot) : (s.modRegs f).slot j = s.slot j := rfl

@[simp] theorem State.modRegs_regs (s : State) (f : HostRegs → HostRegs) : (s.modRegs f).regs = f s.regs := rfl

/-! ### State.storeByte -/

@[simp] theorem State.storeByte_pending (s : State) (a : Nat) (b : Byte) : (s.storeByte a b).pending = s.pending := rfl
@[simp] theorem State.storeByte_timebase (s : State) (a : Nat) (b : Byte) : (s.storeByte a b).timebase = s.timebase := rfl
@[simp] theorem State.storeByte_regs (s : State) (a : Nat) (b : Byte) : (s.storeByte a b).regs = s.regs := rfl
@[simp] theorem State.storeByte_slots (s : State) (a : Nat) (b : Byte) : (s.storeByte a b).slots = s.slots := rfl
@[simp] theorem State.storeByte_prt (s : State) (a : Nat) (b : Byte) : (s.storeByte a b).prt = s.prt := rfl
@[simp] theorem State.storeByte_arb (s : State) (a : Nat) (b : Byte) : (s.storeByte a b).arb = s.arb := rfl
@[simp] theorem State.storeByte_engine (s : State) (a : Nat) (b : Byte) : (s.storeByte a b).engine = s.engine := rfl
@[simp] theorem State.storeByte_draws (s : State) (a : Nat) (b : Byte) : (s.storeByte a b).draws = s.draws := rfl
@[simp] theorem State.storeByte_slot (s : State) (a : Nat) (b : Byte) (j : Slot) : (s.storeByte a b).slot j = s.slot j := rfl

@[simp] theorem State.storeByte_mem (s : State) (a : Nat) (b : Byte) :
    (s.storeByte a b).mem = memPut s.mem (a % 65536) b := rfl

/-! ### State.storeWord -/

@[simp] theorem State.storeWord_pending (s : State) (a : Nat) (w : Word) : (s.storeWord a w).pending = s.pending := rfl
@[simp] theorem State.storeWord_timebase (s : State) (a : Nat) (w : Word) : (s.storeWord a w).timebase = s.timebase := rfl
@[simp] theorem State.storeWord_regs (s : State) (a : Nat) (w : Word) : (s.storeWord a w).regs = s.regs := rfl
@[simp] theorem State.storeWord_slots (s : State) (a : Nat) (w : Word) : (s.storeWord a w).slots = s.slots := rfl
@[simp] theorem State.storeWord_prt (s : State) (a : Nat) (w : Word) : (s.storeWord a w).prt = s.prt := rfl
@[simp] theorem State.storeWord_arb (s : State) (a : Nat) (w : Word) : (s.storeWord a w).arb = s.arb := rfl
@[simp] theorem State.storeWord_engine (s : State) (a : Nat) (w : Word) : (s.storeWord a w).engine = s.engine := rfl
@[simp] theorem State.storeWord_draws (s : State) (a : Nat) (w : Word) : (s.storeWord a w).draws = s.draws := rfl
@[simp] theorem State.storeWord_slot (s : State) (a : Nat) (w : Word) (j : Slot) : (s.storeWord a w).slot j = s.slot j := rfl

/-! ### State.storeHalf -/

@[simp] theorem State.storeHalf_pending (s : State) (a : Nat) (h : Half) : (s.storeHalf a h).pending = s.pending := rfl
@[simp] theorem State.storeHalf_timebase (s : State) (a : Nat) (h : Half) : (s.storeHalf a h).timebase = s.timebase := rfl
@[simp] theorem State.storeHalf_regs (s : State) (a : Nat) (h : Half) : (s.storeHalf a h).regs = s.regs := rfl
@[simp] theorem State.storeHalf_slots (s : State) (a : Nat) (h : Half) : (s.storeHalf a h).slots = s.slots := rfl
@[simp] theorem State.storeHalf_prt (s : State) (a : Nat) (h : Half) : (s.storeHalf a h).prt = s.prt := rfl
@[simp] theorem State.storeHalf_arb (s : State) (a : Nat) (h : Half) : (s.storeHalf a h).arb = s.arb := rfl
@[simp] theorem State.storeHalf_engine (s : State) (a : Nat) (h : Half) : (s.storeHalf a h).engine = s.engine := rfl
@[simp] theorem State.storeHalf_draws (s : State) (a : Nat) (h : Half) : (s.storeHalf a h).draws = s.draws := rfl
@[simp] theorem State.storeHalf_slot (s : State) (a : Nat) (h : Half) (j : Slot) : (s.storeHalf a h).slot j = s.slot j := rfl

/-! ### putWord -/

@[simp] theorem putWord_pending (a : Nat) (w : Word) (s : State) : (putWord a w s).pending = s.pending := by
  unfold putWord; split <;> rfl
@[simp] theorem putWord_timebase (a : Nat) (w : Word) (s : State) : (putWord a w s).timebase = s.timebase := by
  unfold putWord; split <;> rfl
@[simp] theorem putWord_regs (a : Nat) (w : Word) (s : State) : (putWord a w s).regs = s.regs := by
  unfold putWord; split <;> rfl
@[simp] theorem putWord_slots (a : Nat) (w : Word) (s : State) : (putWord a w s).slots = s.slots := by
  unfold putWord; split <;> rfl
@[simp] theorem putWord_prt (a : Nat) (w : Word) (s : State) : (putWord a w s).prt = s.prt := by
  unfold putWord; split <;> rfl
@[simp] theorem putWord_arb (a : Nat) (w : Word) (s : State) : (putWord a w s).arb = s.arb := by
  unfold putWord; split <;> rfl
@[simp] theorem putWord_engine (a : Nat) (w : Word) (s : State) : (putWord a w s).engine = s.engine := by
  unfold putWord; split <;> rfl
@[simp] theorem putWord_draws (a : Nat) (w : Word) (s : State) : (putWord a w s).draws = s.draws := by
  unfold putWord; split <;> rfl
@[simp] theorem putWord_slot (a : Nat) (w : Word) (s : State) (j : Slot) : (putWord a w s).slot j = s.slot j := by
  unfold putWord; split <;> rfl

/-! ### putHalf -/

@[simp] theorem putHalf_pending (a : Nat) (h : Half) (s : State) : (putHalf a h s).pending = s.pending := by
  unfold putHalf; split <;> rfl
@[simp] theorem putHalf_timebase (a : Nat) (h : Half) (s : State) : (putHalf a h s).timebase = s.timebase := by
  unfold putHalf; split <;> rfl
@[simp] theorem putHalf_regs (a : Nat) (h : Half) (s : State) : (putHalf a h s).regs = s.regs := by
  unfold putHalf; split <;> rfl
@[simp] theorem putHalf_slots (a : Nat) (h : Half) (s : State) : (putHalf a h s).slots = s.slots := by
  unfold putHalf; split <;> rfl
@[simp] theorem putHalf_prt (a : Nat) (h : Half) (s : State) : (putHalf a h s).prt = s.prt := by
  unfold putHalf; split <;> rfl
@[simp] theorem putHalf_arb (a : Nat) (h : Half) (s : State) : (putHalf a h s).arb = s.arb := by
  unfold putHalf; split <;> rfl
@[simp] theorem putHalf_engine (a : Nat) (h : Half) (s : State) : (putHalf a h s).engine = s.engine := by
  unfold putHalf; split <;> rfl
@[simp] theorem putHalf_draws (a : Nat) (h : Half) (s : State) : (putHalf a h s).draws = s.draws := by
  unfold putHalf; split <;> rfl
@[simp] theorem putHalf_slot (a : Nat) (h : Half) (s : State) (j : Slot) : (putHalf a h s).slot j = s.slot j := by
  unfold putHalf; split <;> rfl

/-! ### putWords -/

@[simp] theorem putWords_pending (a : Nat) (l : List Word) (s : State) : (putWords a l s).pending = s.pending := by
  induction l generalizing a s with
  | nil => rfl
  | cons w r ih => simp [putWords, ih]
@[simp] theorem putWords_timebase (a : Nat) (l : List Word) (s : State) : (putWords a l s).timebase = s.timebase := by
  induction l generalizing a s with
  | nil => rfl
  | cons w r ih => simp [putWords, ih]
@[simp] theorem putWords_regs (a : Nat) (l : List Word) (s : State) : (putWords a l s).regs = s.regs := by
  induction l generalizing a s with
  | nil => rfl
  | cons w r ih => simp [putWords, ih]
@[simp] theorem putWords_slots (a : Nat) (l : List Word) (s : State) : (putWords a l s).slots = s.slots := by
  induction l generalizing a s with
  | nil => rfl
  | cons w r ih => simp [putWords, ih]
@[simp] theorem putWords_prt (a : Nat) (l : List Word) (s : State) : (putWords a l s).prt = s.prt := by
  induction l generalizing a s with
  | nil => rfl
  | cons w r ih => simp [putWords, ih]
@[simp] theorem putWords_arb (a : Nat) (l : List Word) (s : State) : (putWords a l s).arb = s.arb := by
  induction l generalizing a s with
  | nil => rfl
  | cons w r ih => simp [putWords, ih]
@[simp] theorem putWords_engine (a : Nat) (l : List Word) (s : State) : (putWords a l s).engine = s.engine := by
  induction l generalizing a s with
  | nil => rfl
  | cons w r ih => simp [putWords, ih]
@[simp] theorem putWords_draws (a : Nat) (l : List Word) (s : State) : (putWords a l s).draws = s.draws := by
  induction l generalizing a s with
  | nil => rfl
  | cons w r ih => simp [putWords, ih]
@[simp] theorem putWords_slot (a : Nat) (l : List Word) (s : State) (j : Slot) : (putWords a l s).slot j = s.slot j := by
  induction l generalizing a s with
  | nil => rfl
  | cons w r ih => simp [putWords, ih]

/-! ### clearAttention -/

@[simp] theorem clearAttention_pending (r : RecordNo) (s : State) : (clearAttention r s).pending = s.pending := rfl
@[simp] theorem clearAttention_timebase (r : RecordNo) (s : State) : (clearAttention r s).timebase = s.timebase := rfl
@[simp] theorem clearAttention_mem (r : RecordNo) (s : State) : (clearAttention r s).mem = s.mem := rfl
@[simp] theorem clearAttention_slots (r : RecordNo) (s : State) : (clearAttention r s).slots = s.slots := rfl
@[simp] theorem clearAttention_prt (r : RecordNo) (s : State) : (clearAttention r s).prt = s.prt := rfl
@[simp] theorem clearAttention_arb (r : RecordNo) (s : State) : (clearAttention r s).arb = s.arb := rfl
@[simp] theorem clearAttention_engine (r : RecordNo) (s : State) : (clearAttention r s).engine = s.engine := rfl
@[simp] theorem clearAttention_draws (r : RecordNo) (s : State) : (clearAttention r s).draws = s.draws := rfl
@[simp] theorem clearAttention_slot (r : RecordNo) (s : State) (j : Slot) : (clearAttention r s).slot j = s.slot j := rfl

/-! ### raiseCause -/

@[simp] theorem raiseCause_pending (b : BitVec 2) (s : State) : (raiseCause b s).pending = s.pending := rfl
@[simp] theorem raiseCause_timebase (b : BitVec 2) (s : State) : (raiseCause b s).timebase = s.timebase := rfl
@[simp] theorem raiseCause_mem (b : BitVec 2) (s : State) : (raiseCause b s).mem = s.mem := rfl
@[simp] theorem raiseCause_slots (b : BitVec 2) (s : State) : (raiseCause b s).slots = s.slots := rfl
@[simp] theorem raiseCause_prt (b : BitVec 2) (s : State) : (raiseCause b s).prt = s.prt := rfl
@[simp] theorem raiseCause_arb (b : BitVec 2) (s : State) : (raiseCause b s).arb = s.arb := rfl
@[simp] theorem raiseCause_engine (b : BitVec 2) (s : State) : (raiseCause b s).engine = s.engine := rfl
@[simp] theorem raiseCause_draws (b : BitVec 2) (s : State) : (raiseCause b s).draws = s.draws := rfl
@[simp] theorem raiseCause_slot (b : BitVec 2) (s : State) (j : Slot) : (raiseCause b s).slot j = s.slot j := rfl

end Sys2Proof.Machine
end

