-- ==== Sys2Proof/Laws/Memory.lean ====
section
/-! SUPPORT. Exchange memory: a read after a write, the canonical form, and what the part's writes leave
alone. -/

namespace Sys2Proof.Machine

/-! ### The list -/

/-- Below the first key of a rising list nothing is listed. -/
theorem memGet_below : ∀ (m : List Host.Cell) (lo a : Nat), risesFrom lo m = true → a < lo → memGet m a = 0
  | [], _, _, _, _ => rfl
  | (k, b) :: r, lo, a, h, ha => by
    simp only [risesFrom, Bool.and_eq_true, decide_eq_true_eq] at h
    have hk : ¬ k = a := by omega
    simp only [memGet, hk, if_false]
    exact memGet_below r (k + 1) a h.2 (by omega)

/-- A store leaves every other key as it was. -/
theorem memGet_memPut_ne : ∀ (m : List Host.Cell) (a x : Nat) (b : Byte), x ≠ a → memGet (memPut m a b) x = memGet m x
  | [], a, x, b, h => by
    have : ¬ a = x := fun e => h e.symm
    simp only [memPut]; split <;> simp [memGet, this]
  | (k, c) :: r, a, x, b, h => by
    have hx : ¬ a = x := fun e => h e.symm
    simp only [memPut]
    split
    · split <;> simp [memGet, hx]
    · split
      · rename_i _ hk
        subst hk
        split <;> simp [memGet, hx]
      · simp only [memGet]
        split
        · rfl
        · exact memGet_memPut_ne r a x b h

/-- A store reads back. -/
theorem memGet_memPut_self : ∀ (m : List Host.Cell) (lo a : Nat) (b : Byte), risesFrom lo m = true →
    memGet (memPut m a b) a = b
  | [], _, a, b, _ => by
    simp only [memPut]; split
    · rename_i h; simp [memGet, h]
    · simp [memGet]
  | (k, c) :: r, lo, a, b, h => by
    simp only [risesFrom, Bool.and_eq_true, decide_eq_true_eq] at h
    simp only [memPut]
    split
    · rename_i hlt
      split
      · rename_i hb
        have hk : ¬ k = a := by omega
        simp only [memGet, hk, if_false, hb]
        exact memGet_below r (k + 1) a h.2 (by omega)
      · simp [memGet]
    · split
      · rename_i _ hk
        subst hk
        split
        · rename_i hb; rw [hb]; exact memGet_below r (a + 1) a h.2 (by omega)
        · simp [memGet]
      · rename_i h1 h2
        have hk : ¬ k = a := fun e => h2 e.symm
        simp only [memGet, hk, if_false]
        exact memGet_memPut_self r (k + 1) a b h.2

/-- A store keeps keys rising. -/
theorem risesFrom_memPut : ∀ (m : List Host.Cell) (lo a : Nat) (b : Byte), risesFrom lo m = true → lo ≤ a →
    risesFrom lo (memPut m a b) = true
  | [], lo, a, b, _, ha => by
    simp only [memPut]; split <;> simp [risesFrom, ha]
  | (k, c) :: r, lo, a, b, h, ha => by
    have h0 := h
    simp only [risesFrom, Bool.and_eq_true, decide_eq_true_eq] at h
    simp only [memPut]
    split
    · split
      · exact h0
      · rename_i hlt _
        simp only [risesFrom, Bool.and_eq_true, decide_eq_true_eq]
        exact ⟨ha, by omega, h.2⟩
    · split
      · rename_i _ hk
        subst hk
        split
        · have key : ∀ (l : List Host.Cell) (x y : Nat), y ≤ x → risesFrom x l = true → risesFrom y l = true := by
            intro l x y hxy hl
            cases l with
            | nil => rfl
            | cons p q =>
              obtain ⟨u, v⟩ := p
              simp only [risesFrom, Bool.and_eq_true, decide_eq_true_eq] at hl ⊢
              exact ⟨by omega, hl.2⟩
          exact key r (a + 1) lo (by omega) h.2
        · simp only [risesFrom, Bool.and_eq_true, decide_eq_true_eq]
          exact ⟨ha, h.2⟩
      · simp only [risesFrom, Bool.and_eq_true, decide_eq_true_eq]
        exact ⟨h.1, risesFrom_memPut r (k + 1) a b h.2 (by omega)⟩

/-- What a store can list: an entry of before, or the byte stored when it is not zero. -/
theorem mem_memPut : ∀ (m : List Host.Cell) (a : Nat) (b : Byte) (c : Host.Cell), c ∈ memPut m a b →
    c ∈ m ∨ (c = (a, b) ∧ b ≠ 0)
  | [], a, b, c, h => by
    simp only [memPut] at h; split at h
    · simp at h
    · rename_i hb; simp at h; exact .inr ⟨h, hb⟩
  | (k, d) :: r, a, b, c, h => by
    simp only [memPut] at h
    split at h
    · split at h
      · exact .inl h
      · rename_i hb
        rcases List.mem_cons.1 h with h | h
        · exact .inr ⟨h, hb⟩
        · exact .inl h
    · split at h
      · split at h
        · exact .inl (List.mem_cons_of_mem _ h)
        · rename_i hb
          rcases List.mem_cons.1 h with h | h
          · exact .inr ⟨h, hb⟩
          · exact .inl (List.mem_cons_of_mem _ h)
      · rcases List.mem_cons.1 h with h | h
        · exact .inl (h ▸ List.mem_cons_self ..)
        · rcases mem_memPut r a b c h with h | h
          · exact .inl (List.mem_cons_of_mem _ h)
          · exact .inr h

/-- A store within the window keeps the canonical form. -/
theorem Memory.wf_memPut (m : List Host.Cell) (a : Nat) (b : Byte) (h : Memory.wf m = true) (ha : a < 65536) :
    Memory.wf (memPut m a b) = true := by
  simp only [Memory.wf, Bool.and_eq_true, List.all_eq_true, decide_eq_true_eq] at h ⊢
  refine ⟨risesFrom_memPut m 0 a b h.1 (Nat.zero_le _), fun c hc => ?_⟩
  rcases mem_memPut m a b c hc with hc | ⟨rfl, hb⟩
  · exact h.2 c hc
  · exact ⟨ha, hb⟩

/-- The canonical form rises from 0. -/
theorem Memory.rises (m : List Host.Cell) (h : Memory.wf m = true) : risesFrom 0 m = true := by
  simp only [Memory.wf, Bool.and_eq_true] at h; exact h.1

/-! ### The state's stores -/

/-- A store of a byte keeps the canonical form. -/
theorem storeByte_wf (s : State) (a : Nat) (b : Byte) (h : Memory.wf s.mem = true) :
    Memory.wf (s.storeByte a b).mem = true :=
  Memory.wf_memPut _ _ _ h (Nat.mod_lt _ (by decide))

/-- A store of a word keeps the canonical form. -/
theorem storeWord_wf (s : State) (a : Nat) (w : Word) (h : Memory.wf s.mem = true) :
    Memory.wf (s.storeWord a w).mem = true := by
  unfold State.storeWord
  exact storeByte_wf _ _ _ (storeByte_wf _ _ _ (storeByte_wf _ _ _ (storeByte_wf _ _ _ h)))

/-- A store of a half word keeps the canonical form. -/
theorem storeHalf_wf (s : State) (a : Nat) (w : Half) (h : Memory.wf s.mem = true) :
    Memory.wf (s.storeHalf a w).mem = true := by
  unfold State.storeHalf
  exact storeByte_wf _ _ _ (storeByte_wf _ _ _ h)

/-- The part's write of a word keeps the canonical form. -/
theorem putWord_wf (s : State) (a : Nat) (w : Word) (h : Memory.wf s.mem = true) :
    Memory.wf (putWord a w s).mem = true := by
  unfold putWord; split
  · exact storeWord_wf _ _ _ h
  · exact h

/-- The part's write of a half word keeps the canonical form. -/
theorem putHalf_wf (s : State) (a : Nat) (w : Half) (h : Memory.wf s.mem = true) :
    Memory.wf (putHalf a w s).mem = true := by
  unfold putHalf; split
  · exact storeHalf_wf _ _ _ h
  · exact h

/-- The part's write of consecutive words keeps the canonical form. -/
theorem putWords_wf (a : Nat) (l : List Word) (s : State) (h : Memory.wf s.mem = true) :
    Memory.wf (putWords a l s).mem = true := by
  induction l generalizing a s with
  | nil => exact h
  | cons w r ih => exact ih _ _ (putWord_wf _ _ _ h)

/-! ### Reads after stores -/

/-- A byte stored reads back, and every other byte stays. -/
theorem readByte_storeByte (s : State) (a x : Nat) (b : Byte) (h : Memory.wf s.mem = true) :
    (s.storeByte a b).readByte x = if x % 65536 = a % 65536 then b else s.readByte x := by
  unfold State.readByte
  rw [State.storeByte_mem]
  split
  · rename_i e; rw [e]; exact memGet_memPut_self _ 0 _ _ (Memory.rises _ h)
  · rename_i e; exact memGet_memPut_ne _ _ _ _ e

/-- A byte other than the one stored stays, in any memory. -/
theorem readByte_storeByte_ne (s : State) (a x : Nat) (b : Byte) (h : x % 65536 ≠ a % 65536) :
    (s.storeByte a b).readByte x = s.readByte x := memGet_memPut_ne _ _ _ _ h

/-- The bytes outside a stored word stay. -/
theorem readByte_storeWord_ne (s : State) (a x : Nat) (w : Word)
    (h : ∀ k, k < 4 → x % 65536 ≠ (a + k) % 65536) : (s.storeWord a w).readByte x = s.readByte x := by
  unfold State.storeWord
  rw [readByte_storeByte_ne _ _ _ _ (h 3 (by omega)), readByte_storeByte_ne _ _ _ _ (h 2 (by omega)),
    readByte_storeByte_ne _ _ _ _ (h 1 (by omega)), readByte_storeByte_ne _ a _ _ (h 0 (by omega))]

/-- The bytes outside a stored half word stay. -/
theorem readByte_storeHalf_ne (s : State) (a x : Nat) (w : Half)
    (h : ∀ k, k < 2 → x % 65536 ≠ (a + k) % 65536) : (s.storeHalf a w).readByte x = s.readByte x := by
  unfold State.storeHalf
  rw [readByte_storeByte_ne _ _ _ _ (h 1 (by omega)), readByte_storeByte_ne _ a _ _ (h 0 (by omega))]

/-- The bytes outside a word that the part writes stay. -/
theorem readByte_putWord_ne (s : State) (a x : Nat) (w : Word)
    (h : ∀ k, k < 4 → x % 65536 ≠ (a + k) % 65536) : (putWord a w s).readByte x = s.readByte x := by
  unfold putWord; split
  · exact readByte_storeWord_ne s a x w h
  · rfl

/-- The bytes outside a half word that the part writes stay. -/
theorem readByte_putHalf_ne (s : State) (a x : Nat) (w : Half)
    (h : ∀ k, k < 2 → x % 65536 ≠ (a + k) % 65536) : (putHalf a w s).readByte x = s.readByte x := by
  unfold putHalf; split
  · exact readByte_storeHalf_ne s a x w h
  · rfl

/-- The bytes outside the words that the part writes stay. -/
theorem readByte_putWords_ne (a : Nat) (l : List Word) (s : State) (x : Nat)
    (h : ∀ k, k < 4 * l.length → x % 65536 ≠ (a + k) % 65536) : (putWords a l s).readByte x = s.readByte x := by
  induction l generalizing a s with
  | nil => rfl
  | cons w r ih =>
    simp only [List.length_cons] at h
    rw [putWords, ih, readByte_putWord_ne]
    · intro k hk; exact h k (by omega)
    · intro k hk
      have := h (4 + k) (by omega)
      rwa [← Nat.add_assoc] at this

/-- The four bytes of a word make it up. -/
theorem wordOfBytes_byteOf (w : Word) : wordOfBytes (byteOf w 0) (byteOf w 1) (byteOf w 2) (byteOf w 3) = w := by
  apply BitVec.eq_of_getLsbD_eq
  intro i hi
  simp only [wordOfBytes, byteOf, BitVec.getLsbD_append, BitVec.getLsbD_setWidth, BitVec.getLsbD_ushiftRight]
  by_cases h1 : i < 8
  · simp [h1]
  · by_cases h2 : i < 16
    · have a1 : i - 8 < 8 := by omega
      have a2 : 8 + (i - 8) = i := by omega
      simp [h1, a1, a2]
    · by_cases h3 : i < 24
      · have a1 : ¬ i - 8 < 8 := by omega
        have a2 : i - 8 - 8 < 8 := by omega
        have a3 : 16 + (i - 8 - 8) = i := by omega
        simp [h1, a1, a2, a3]
      · have a1 : ¬ i - 8 < 8 := by omega
        have a2 : ¬ i - 8 - 8 < 8 := by omega
        have a3 : i - 8 - 8 - 8 < 8 := by omega
        have a4 : 24 + (i - 8 - 8 - 8) = i := by omega
        simp [h1, a1, a2, a3, a4]

/-- A stored word reads back. -/
theorem readWord_storeWord (s : State) (a : Nat) (w : Word) (h : Memory.wf s.mem = true) :
    (s.storeWord a w).readWord a = w := by
  have h0 := storeByte_wf s a (byteOf w 0) h
  have h1 := storeByte_wf _ (a + 1) (byteOf w 1) h0
  have h2 := storeByte_wf _ (a + 2) (byteOf w 2) h1
  unfold State.readWord State.storeWord
  rw [readByte_storeByte _ _ _ _ h2, readByte_storeByte _ _ _ _ h2, readByte_storeByte _ _ _ _ h2,
    readByte_storeByte _ _ _ _ h2, readByte_storeByte _ _ _ _ h1, readByte_storeByte _ _ _ _ h1,
    readByte_storeByte _ _ _ _ h1, readByte_storeByte _ _ _ _ h0, readByte_storeByte _ _ _ _ h0,
    readByte_storeByte _ _ _ _ h]
  have e1 : ¬ a % 65536 = (a + 1) % 65536 := by omega
  have e2 : ¬ a % 65536 = (a + 2) % 65536 := by omega
  have e3 : ¬ a % 65536 = (a + 3) % 65536 := by omega
  have e4 : ¬ (a + 1) % 65536 = (a + 2) % 65536 := by omega
  have e5 : ¬ (a + 1) % 65536 = (a + 3) % 65536 := by omega
  have e6 : ¬ (a + 2) % 65536 = (a + 3) % 65536 := by omega
  simp only [e1, e2, e3, e4, e5, e6, if_false, if_true]
  exact wordOfBytes_byteOf w

/-- A word that the part writes after READY reads back. -/
theorem readWord_putWord (s : State) (a : Nat) (w : Word) (h : Memory.wf s.mem = true) (hr : s.regs.ready = true) :
    (putWord a w s).readWord a = w := by
  unfold putWord; rw [if_pos hr]; exact readWord_storeWord s a w h

/-- A word is read from its four bytes alone. -/
theorem readWord_congr (s t : State) (a : Nat) (h : ∀ k, k < 4 → t.readByte (a + k) = s.readByte (a + k)) :
    t.readWord a = s.readWord a := by
  unfold State.readWord
  rw [show t.readByte a = s.readByte a from h 0 (by omega), h 1 (by omega), h 2 (by omega), h 3 (by omega)]

/-- Equal memories read alike. -/
theorem readByte_of_mem (s t : State) (h : t.mem = s.mem) (a : Nat) : t.readByte a = s.readByte a := by
  unfold State.readByte; rw [h]

/-- Equal memories read alike, by words. -/
theorem readWord_of_mem (s t : State) (h : t.mem = s.mem) (a : Nat) : t.readWord a = s.readWord a :=
  readWord_congr s t a fun _ _ => readByte_of_mem s t h _

end Sys2Proof.Machine
end

