-- ==== Sys2Proof/Laws/Frames.lean ====
section
/-! SUPPORT. What the shared operations leave unchanged: notices and outcome fields leave every block,
changes of state and line drives leave the Pending Request Table, the Arbiter and the Restore Engine. -/

namespace Sys2Proof.Machine

/-- A projection that every pass of a loop over slots keeps is kept by the loop. -/
theorem eachSlot_keeps {α : Type} (g : State → α) (f : Slot → State → State) (h : ∀ m t, g (f m t) = g t)
    (l : List Slot) (s : State) : g (eachSlot l f s) = g s := by
  unfold eachSlot
  induction l generalizing s with
  | nil => rfl
  | cons m r ih => simp only [List.foldl_cons]; rw [ih, h]

/-- Equal vectors of slots are equal slot by slot. -/
theorem State.slot_congr {s t : State} (h : t.slots = s.slots) (j : Slot) : t.slot j = s.slot j := by
  unfold State.slot; rw [h]

@[simp] theorem eachSlot_nil (f : Slot → State → State) (s : State) : eachSlot [] f s = s := rfl

@[simp] theorem eachSlot_cons (m : Slot) (l : List Slot) (f : Slot → State → State) (s : State) :
    eachSlot (m :: l) f s = eachSlot l f (f m s) := rfl

@[simp] theorem eachSlot_pending (l : List Slot) (f : Slot → State → State) (s : State)
    (h : ∀ m t, (f m t).pending = t.pending) : (eachSlot l f s).pending = s.pending := eachSlot_keeps (fun t => t.pending) f h l s

@[simp] theorem eachSlot_timebase (l : List Slot) (f : Slot → State → State) (s : State)
    (h : ∀ m t, (f m t).timebase = t.timebase) : (eachSlot l f s).timebase = s.timebase := eachSlot_keeps (fun t => t.timebase) f h l s

@[simp] theorem eachSlot_regs (l : List Slot) (f : Slot → State → State) (s : State)
    (h : ∀ m t, (f m t).regs = t.regs) : (eachSlot l f s).regs = s.regs := eachSlot_keeps (fun t => t.regs) f h l s

@[simp] theorem eachSlot_prt (l : List Slot) (f : Slot → State → State) (s : State)
    (h : ∀ m t, (f m t).prt = t.prt) : (eachSlot l f s).prt = s.prt := eachSlot_keeps (fun t => t.prt) f h l s

@[simp] theorem eachSlot_arb (l : List Slot) (f : Slot → State → State) (s : State)
    (h : ∀ m t, (f m t).arb = t.arb) : (eachSlot l f s).arb = s.arb := eachSlot_keeps (fun t => t.arb) f h l s

@[simp] theorem eachSlot_engine (l : List Slot) (f : Slot → State → State) (s : State)
    (h : ∀ m t, (f m t).engine = t.engine) : (eachSlot l f s).engine = s.engine := eachSlot_keeps (fun t => t.engine) f h l s

@[simp] theorem eachSlot_draws (l : List Slot) (f : Slot → State → State) (s : State)
    (h : ∀ m t, (f m t).draws = t.draws) : (eachSlot l f s).draws = s.draws := eachSlot_keeps (fun t => t.draws) f h l s

@[simp] theorem eachSlot_slots (l : List Slot) (f : Slot → State → State) (s : State)
    (h : ∀ m t, (f m t).slots = t.slots) : (eachSlot l f s).slots = s.slots := eachSlot_keeps (fun t => t.slots) f h l s

/-- `ready` through a loop over slots. -/
theorem eachSlot_ready (l : List Slot) (f : Slot → State → State) (s : State)
    (h : ∀ m t, (f m t).regs.ready = t.regs.ready) : (eachSlot l f s).regs.ready = s.regs.ready :=
  eachSlot_keeps (fun t => t.regs.ready) f h l s

@[simp] theorem eachSlot_slot (l : List Slot) (f : Slot → State → State) (s : State) (j : Slot)
    (h : ∀ m t, (f m t).slot j = t.slot j) : (eachSlot l f s).slot j = s.slot j :=
  eachSlot_keeps (fun t => t.slot j) f h l s

@[simp] theorem eachSlot_slot_settings (l : List Slot) (f : Slot → State → State) (s : State) (j : Slot)
    (h : ∀ m t, ((f m t).slot j).settings = (t.slot j).settings) : ((eachSlot l f s).slot j).settings = (s.slot j).settings :=
  eachSlot_keeps (fun t => (t.slot j).settings) f h l s

@[simp] theorem eachSlot_slot_gate (l : List Slot) (f : Slot → State → State) (s : State) (j : Slot)
    (h : ∀ m t, ((f m t).slot j).gate = (t.slot j).gate) : ((eachSlot l f s).slot j).gate = (s.slot j).gate :=
  eachSlot_keeps (fun t => (t.slot j).gate) f h l s

@[simp] theorem eachSlot_slot_ring (l : List Slot) (f : Slot → State → State) (s : State) (j : Slot)
    (h : ∀ m t, ((f m t).slot j).ring = (t.slot j).ring) : ((eachSlot l f s).slot j).ring = (s.slot j).ring :=
  eachSlot_keeps (fun t => (t.slot j).ring) f h l s

@[simp] theorem eachSlot_slot_hostOut (l : List Slot) (f : Slot → State → State) (s : State) (j : Slot)
    (h : ∀ m t, ((f m t).slot j).hostOut = (t.slot j).hostOut) : ((eachSlot l f s).slot j).hostOut = (s.slot j).hostOut :=
  eachSlot_keeps (fun t => (t.slot j).hostOut) f h l s

@[simp] theorem eachSlot_slot_cardOut (l : List Slot) (f : Slot → State → State) (s : State) (j : Slot)
    (h : ∀ m t, ((f m t).slot j).cardOut = (t.slot j).cardOut) : ((eachSlot l f s).slot j).cardOut = (s.slot j).cardOut :=
  eachSlot_keeps (fun t => (t.slot j).cardOut) f h l s

@[simp] theorem eachSlot_slot_meter (l : List Slot) (f : Slot → State → State) (s : State) (j : Slot)
    (h : ∀ m t, ((f m t).slot j).meter = (t.slot j).meter) : ((eachSlot l f s).slot j).meter = (s.slot j).meter :=
  eachSlot_keeps (fun t => (t.slot j).meter) f h l s

@[simp] theorem eachSlot_slot_seq (l : List Slot) (f : Slot → State → State) (s : State) (j : Slot)
    (h : ∀ m t, ((f m t).slot j).seq = (t.slot j).seq) : ((eachSlot l f s).slot j).seq = (s.slot j).seq :=
  eachSlot_keeps (fun t => (t.slot j).seq) f h l s

@[simp] theorem eachSlot_slot_lines (l : List Slot) (f : Slot → State → State) (s : State) (j : Slot)
    (h : ∀ m t, ((f m t).slot j).lines = (t.slot j).lines) : ((eachSlot l f s).slot j).lines = (s.slot j).lines :=
  eachSlot_keeps (fun t => (t.slot j).lines) f h l s

@[simp] theorem eachSlot_slot_probe (l : List Slot) (f : Slot → State → State) (s : State) (j : Slot)
    (h : ∀ m t, ((f m t).slot j).probe = (t.slot j).probe) : ((eachSlot l f s).slot j).probe = (s.slot j).probe :=
  eachSlot_keeps (fun t => (t.slot j).probe) f h l s

/-! ### postNotice -/

@[simp] theorem postNotice_pending (k : NoticeKind) (a c r : Nat) (d : Word) (s : State) : (postNotice k a c r d s).pending = s.pending := by
  unfold postNotice
  split
  · simp only []; split <;> simp
  · simp
@[simp] theorem postNotice_timebase (k : NoticeKind) (a c r : Nat) (d : Word) (s : State) : (postNotice k a c r d s).timebase = s.timebase := by
  unfold postNotice
  split
  · simp only []; split <;> simp
  · simp
@[simp] theorem postNotice_prt (k : NoticeKind) (a c r : Nat) (d : Word) (s : State) : (postNotice k a c r d s).prt = s.prt := by
  unfold postNotice
  split
  · simp only []; split <;> simp
  · simp
@[simp] theorem postNotice_arb (k : NoticeKind) (a c r : Nat) (d : Word) (s : State) : (postNotice k a c r d s).arb = s.arb := by
  unfold postNotice
  split
  · simp only []; split <;> simp
  · simp
@[simp] theorem postNotice_engine (k : NoticeKind) (a c r : Nat) (d : Word) (s : State) : (postNotice k a c r d s).engine = s.engine := by
  unfold postNotice
  split
  · simp only []; split <;> simp
  · simp
@[simp] theorem postNotice_draws (k : NoticeKind) (a c r : Nat) (d : Word) (s : State) : (postNotice k a c r d s).draws = s.draws := by
  unfold postNotice
  split
  · simp only []; split <;> simp
  · simp
@[simp] theorem postNotice_slots (k : NoticeKind) (a c r : Nat) (d : Word) (s : State) : (postNotice k a c r d s).slots = s.slots := by
  unfold postNotice
  split
  · simp only []; split <;> simp
  · simp
@[simp] theorem postNotice_slot (k : NoticeKind) (a c r : Nat) (d : Word) (s : State) (j : Slot) : (postNotice k a c r d s).slot j = s.slot j :=
  State.slot_congr (by simp) j

/-! ### postOrderDone -/

@[simp] theorem postOrderDone_pending (a c : Nat) (r : Result) (d : Word) (s : State) : (postOrderDone a c r d s).pending = s.pending := by
  simp [postOrderDone]
@[simp] theorem postOrderDone_timebase (a c : Nat) (r : Result) (d : Word) (s : State) : (postOrderDone a c r d s).timebase = s.timebase := by
  simp [postOrderDone]
@[simp] theorem postOrderDone_prt (a c : Nat) (r : Result) (d : Word) (s : State) : (postOrderDone a c r d s).prt = s.prt := by
  simp [postOrderDone]
@[simp] theorem postOrderDone_arb (a c : Nat) (r : Result) (d : Word) (s : State) : (postOrderDone a c r d s).arb = s.arb := by
  simp [postOrderDone]
@[simp] theorem postOrderDone_engine (a c : Nat) (r : Result) (d : Word) (s : State) : (postOrderDone a c r d s).engine = s.engine := by
  simp [postOrderDone]
@[simp] theorem postOrderDone_draws (a c : Nat) (r : Result) (d : Word) (s : State) : (postOrderDone a c r d s).draws = s.draws := by
  simp [postOrderDone]
@[simp] theorem postOrderDone_slots (a c : Nat) (r : Result) (d : Word) (s : State) : (postOrderDone a c r d s).slots = s.slots := by
  simp [postOrderDone]
@[simp] theorem postOrderDone_slot (a c : Nat) (r : Result) (d : Word) (s : State) (j : Slot) : (postOrderDone a c r d s).slot j = s.slot j :=
  State.slot_congr (by simp) j

/-! ### syncSlot -/

@[simp] theorem syncSlot_pending (i : Slot) (s : State) : (syncSlot i s).pending = s.pending := by
  simp [syncSlot]
@[simp] theorem syncSlot_timebase (i : Slot) (s : State) : (syncSlot i s).timebase = s.timebase := by
  simp [syncSlot]
@[simp] theorem syncSlot_prt (i : Slot) (s : State) : (syncSlot i s).prt = s.prt := by
  simp [syncSlot]
@[simp] theorem syncSlot_arb (i : Slot) (s : State) : (syncSlot i s).arb = s.arb := by
  simp [syncSlot]
@[simp] theorem syncSlot_engine (i : Slot) (s : State) : (syncSlot i s).engine = s.engine := by
  simp [syncSlot]
@[simp] theorem syncSlot_draws (i : Slot) (s : State) : (syncSlot i s).draws = s.draws := by
  simp [syncSlot]
@[simp] theorem syncSlot_regs (i : Slot) (s : State) : (syncSlot i s).regs = s.regs := by
  simp [syncSlot]
@[simp] theorem syncSlot_slots (i : Slot) (s : State) : (syncSlot i s).slots = s.slots := by
  simp [syncSlot]
@[simp] theorem syncSlot_slot (i : Slot) (s : State) (j : Slot) : (syncSlot i s).slot j = s.slot j :=
  State.slot_congr (by simp) j

/-! ### syncGroup -/

@[simp] theorem syncGroup_pending (l : Slot) (s : State) : (syncGroup l s).pending = s.pending := by
  simp [syncGroup]
@[simp] theorem syncGroup_timebase (l : Slot) (s : State) : (syncGroup l s).timebase = s.timebase := by
  simp [syncGroup]
@[simp] theorem syncGroup_prt (l : Slot) (s : State) : (syncGroup l s).prt = s.prt := by
  simp [syncGroup]
@[simp] theorem syncGroup_arb (l : Slot) (s : State) : (syncGroup l s).arb = s.arb := by
  simp [syncGroup]
@[simp] theorem syncGroup_engine (l : Slot) (s : State) : (syncGroup l s).engine = s.engine := by
  simp [syncGroup]
@[simp] theorem syncGroup_draws (l : Slot) (s : State) : (syncGroup l s).draws = s.draws := by
  simp [syncGroup]
@[simp] theorem syncGroup_regs (l : Slot) (s : State) : (syncGroup l s).regs = s.regs := by
  simp [syncGroup]
@[simp] theorem syncGroup_slots (l : Slot) (s : State) : (syncGroup l s).slots = s.slots := by
  simp [syncGroup]
@[simp] theorem syncGroup_slot (l : Slot) (s : State) (j : Slot) : (syncGroup l s).slot j = s.slot j :=
  State.slot_congr (by simp) j

/-! ### writeOutcome -/

@[simp] theorem writeOutcome_pending (i : Slot) (r : Result) (o : Order) (s : State) : (writeOutcome i r o s).pending = s.pending := by
  simp [writeOutcome]
@[simp] theorem writeOutcome_timebase (i : Slot) (r : Result) (o : Order) (s : State) : (writeOutcome i r o s).timebase = s.timebase := by
  simp [writeOutcome]
@[simp] theorem writeOutcome_prt (i : Slot) (r : Result) (o : Order) (s : State) : (writeOutcome i r o s).prt = s.prt := by
  simp [writeOutcome]
@[simp] theorem writeOutcome_arb (i : Slot) (r : Result) (o : Order) (s : State) : (writeOutcome i r o s).arb = s.arb := by
  simp [writeOutcome]
@[simp] theorem writeOutcome_engine (i : Slot) (r : Result) (o : Order) (s : State) : (writeOutcome i r o s).engine = s.engine := by
  simp [writeOutcome]
@[simp] theorem writeOutcome_draws (i : Slot) (r : Result) (o : Order) (s : State) : (writeOutcome i r o s).draws = s.draws := by
  simp [writeOutcome]
@[simp] theorem writeOutcome_regs (i : Slot) (r : Result) (o : Order) (s : State) : (writeOutcome i r o s).regs = s.regs := by
  simp [writeOutcome]
@[simp] theorem writeOutcome_slots (i : Slot) (r : Result) (o : Order) (s : State) : (writeOutcome i r o s).slots = s.slots := by
  simp [writeOutcome]
@[simp] theorem writeOutcome_slot (i : Slot) (r : Result) (o : Order) (s : State) (j : Slot) : (writeOutcome i r o s).slot j = s.slot j :=
  State.slot_congr (by simp) j

/-! ### endOrderWith -/

@[simp] theorem endOrderWith_pending (h : Bool) (i : Slot) (o : Order) (r : Result) (d : Word) (s : State) : (endOrderWith h i o r d s).pending = s.pending := by
  unfold endOrderWith; cases h <;> simp
@[simp] theorem endOrderWith_timebase (h : Bool) (i : Slot) (o : Order) (r : Result) (d : Word) (s : State) : (endOrderWith h i o r d s).timebase = s.timebase := by
  unfold endOrderWith; cases h <;> simp
@[simp] theorem endOrderWith_prt (h : Bool) (i : Slot) (o : Order) (r : Result) (d : Word) (s : State) : (endOrderWith h i o r d s).prt = s.prt := by
  unfold endOrderWith; cases h <;> simp
@[simp] theorem endOrderWith_arb (h : Bool) (i : Slot) (o : Order) (r : Result) (d : Word) (s : State) : (endOrderWith h i o r d s).arb = s.arb := by
  unfold endOrderWith; cases h <;> simp
@[simp] theorem endOrderWith_engine (h : Bool) (i : Slot) (o : Order) (r : Result) (d : Word) (s : State) : (endOrderWith h i o r d s).engine = s.engine := by
  unfold endOrderWith; cases h <;> simp
@[simp] theorem endOrderWith_draws (h : Bool) (i : Slot) (o : Order) (r : Result) (d : Word) (s : State) : (endOrderWith h i o r d s).draws = s.draws := by
  unfold endOrderWith; cases h <;> simp
@[simp] theorem endOrderWith_slots (h : Bool) (i : Slot) (o : Order) (r : Result) (d : Word) (s : State) : (endOrderWith h i o r d s).slots = s.slots := by
  unfold endOrderWith; cases h <;> simp
@[simp] theorem endOrderWith_slot (h : Bool) (i : Slot) (o : Order) (r : Result) (d : Word) (s : State) (j : Slot) : (endOrderWith h i o r d s).slot j = s.slot j :=
  State.slot_congr (by simp) j

/-! ### endOrder -/

@[simp] theorem endOrder_pending (h : Bool) (i : Slot) (o : Order) (r : Result) (s : State) : (endOrder h i o r s).pending = s.pending := by
  simp [endOrder]
@[simp] theorem endOrder_timebase (h : Bool) (i : Slot) (o : Order) (r : Result) (s : State) : (endOrder h i o r s).timebase = s.timebase := by
  simp [endOrder]
@[simp] theorem endOrder_prt (h : Bool) (i : Slot) (o : Order) (r : Result) (s : State) : (endOrder h i o r s).prt = s.prt := by
  simp [endOrder]
@[simp] theorem endOrder_arb (h : Bool) (i : Slot) (o : Order) (r : Result) (s : State) : (endOrder h i o r s).arb = s.arb := by
  simp [endOrder]
@[simp] theorem endOrder_engine (h : Bool) (i : Slot) (o : Order) (r : Result) (s : State) : (endOrder h i o r s).engine = s.engine := by
  simp [endOrder]
@[simp] theorem endOrder_draws (h : Bool) (i : Slot) (o : Order) (r : Result) (s : State) : (endOrder h i o r s).draws = s.draws := by
  simp [endOrder]
@[simp] theorem endOrder_slots (h : Bool) (i : Slot) (o : Order) (r : Result) (s : State) : (endOrder h i o r s).slots = s.slots := by
  simp [endOrder]
@[simp] theorem endOrder_slot (h : Bool) (i : Slot) (o : Order) (r : Result) (s : State) (j : Slot) : (endOrder h i o r s).slot j = s.slot j :=
  State.slot_congr (by simp) j

/-! ### refreshIndicator -/

@[simp] theorem refreshIndicator_pending (i : Slot) (s : State) : (refreshIndicator i s).pending = s.pending := by
  simp [refreshIndicator]
@[simp] theorem refreshIndicator_timebase (i : Slot) (s : State) : (refreshIndicator i s).timebase = s.timebase := by
  simp [refreshIndicator]
@[simp] theorem refreshIndicator_prt (i : Slot) (s : State) : (refreshIndicator i s).prt = s.prt := by
  simp [refreshIndicator]
@[simp] theorem refreshIndicator_arb (i : Slot) (s : State) : (refreshIndicator i s).arb = s.arb := by
  simp [refreshIndicator]
@[simp] theorem refreshIndicator_engine (i : Slot) (s : State) : (refreshIndicator i s).engine = s.engine := by
  simp [refreshIndicator]
@[simp] theorem refreshIndicator_draws (i : Slot) (s : State) : (refreshIndicator i s).draws = s.draws := by
  simp [refreshIndicator]
@[simp] theorem refreshIndicator_regs (i : Slot) (s : State) : (refreshIndicator i s).regs = s.regs := by
  simp [refreshIndicator]

@[simp] theorem refreshIndicator_slot_settings (i : Slot) (s : State) (j : Slot) :
    ((refreshIndicator i s).slot j).settings = (s.slot j).settings := by
  simp only [refreshIndicator, State.modLines_slot]; split <;> simp_all
@[simp] theorem refreshIndicator_slot_gate (i : Slot) (s : State) (j : Slot) :
    ((refreshIndicator i s).slot j).gate = (s.slot j).gate := by
  simp only [refreshIndicator, State.modLines_slot]; split <;> simp_all
@[simp] theorem refreshIndicator_slot_ring (i : Slot) (s : State) (j : Slot) :
    ((refreshIndicator i s).slot j).ring = (s.slot j).ring := by
  simp only [refreshIndicator, State.modLines_slot]; split <;> simp_all
@[simp] theorem refreshIndicator_slot_hostOut (i : Slot) (s : State) (j : Slot) :
    ((refreshIndicator i s).slot j).hostOut = (s.slot j).hostOut := by
  simp only [refreshIndicator, State.modLines_slot]; split <;> simp_all
@[simp] theorem refreshIndicator_slot_cardOut (i : Slot) (s : State) (j : Slot) :
    ((refreshIndicator i s).slot j).cardOut = (s.slot j).cardOut := by
  simp only [refreshIndicator, State.modLines_slot]; split <;> simp_all
@[simp] theorem refreshIndicator_slot_meter (i : Slot) (s : State) (j : Slot) :
    ((refreshIndicator i s).slot j).meter = (s.slot j).meter := by
  simp only [refreshIndicator, State.modLines_slot]; split <;> simp_all
@[simp] theorem refreshIndicator_slot_seq (i : Slot) (s : State) (j : Slot) :
    ((refreshIndicator i s).slot j).seq = (s.slot j).seq := by
  simp only [refreshIndicator, State.modLines_slot]; split <;> simp_all
@[simp] theorem refreshIndicator_slot_probe (i : Slot) (s : State) (j : Slot) :
    ((refreshIndicator i s).slot j).probe = (s.slot j).probe := by
  simp only [refreshIndicator, State.modLines_slot]; split <;> simp_all

/-! ### enterMember -/

@[simp] theorem enterMember_pending (st : SeqState) (i : Slot) (s : State) : (enterMember st i s).pending = s.pending := by
  simp [enterMember]
@[simp] theorem enterMember_timebase (st : SeqState) (i : Slot) (s : State) : (enterMember st i s).timebase = s.timebase := by
  simp [enterMember]
@[simp] theorem enterMember_prt (st : SeqState) (i : Slot) (s : State) : (enterMember st i s).prt = s.prt := by
  simp [enterMember]
@[simp] theorem enterMember_arb (st : SeqState) (i : Slot) (s : State) : (enterMember st i s).arb = s.arb := by
  simp [enterMember]
@[simp] theorem enterMember_engine (st : SeqState) (i : Slot) (s : State) : (enterMember st i s).engine = s.engine := by
  simp [enterMember]
@[simp] theorem enterMember_draws (st : SeqState) (i : Slot) (s : State) : (enterMember st i s).draws = s.draws := by
  simp [enterMember]
@[simp] theorem enterMember_regs (st : SeqState) (i : Slot) (s : State) : (enterMember st i s).regs = s.regs := by
  simp [enterMember]

@[simp] theorem enterMember_slot_settings (st : SeqState) (i : Slot) (s : State) (j : Slot) :
    ((enterMember st i s).slot j).settings = (s.slot j).settings := by
  simp only [enterMember, refreshIndicator_slot_settings, State.modSlot_slot]; split <;> simp_all
@[simp] theorem enterMember_slot_gate (st : SeqState) (i : Slot) (s : State) (j : Slot) :
    ((enterMember st i s).slot j).gate = (s.slot j).gate := by
  simp only [enterMember, refreshIndicator_slot_gate, State.modSlot_slot]; split <;> simp_all
@[simp] theorem enterMember_slot_ring (st : SeqState) (i : Slot) (s : State) (j : Slot) :
    ((enterMember st i s).slot j).ring = (s.slot j).ring := by
  simp only [enterMember, refreshIndicator_slot_ring, State.modSlot_slot]; split <;> simp_all
@[simp] theorem enterMember_slot_hostOut (st : SeqState) (i : Slot) (s : State) (j : Slot) :
    ((enterMember st i s).slot j).hostOut = (s.slot j).hostOut := by
  simp only [enterMember, refreshIndicator_slot_hostOut, State.modSlot_slot]; split <;> simp_all
@[simp] theorem enterMember_slot_cardOut (st : SeqState) (i : Slot) (s : State) (j : Slot) :
    ((enterMember st i s).slot j).cardOut = (s.slot j).cardOut := by
  simp only [enterMember, refreshIndicator_slot_cardOut, State.modSlot_slot]; split <;> simp_all
@[simp] theorem enterMember_slot_seq (st : SeqState) (i : Slot) (s : State) (j : Slot) :
    ((enterMember st i s).slot j).seq = (s.slot j).seq := by
  simp only [enterMember, refreshIndicator_slot_seq, State.modSlot_slot]; split <;> simp_all

/-! ### enterState -/

@[simp] theorem enterState_pending (l : Slot) (st : SeqState) (why : Cause) (s : State) : (enterState l st why s).pending = s.pending := by
  simp [enterState]
@[simp] theorem enterState_timebase (l : Slot) (st : SeqState) (why : Cause) (s : State) : (enterState l st why s).timebase = s.timebase := by
  simp [enterState]
@[simp] theorem enterState_prt (l : Slot) (st : SeqState) (why : Cause) (s : State) : (enterState l st why s).prt = s.prt := by
  simp [enterState]
@[simp] theorem enterState_arb (l : Slot) (st : SeqState) (why : Cause) (s : State) : (enterState l st why s).arb = s.arb := by
  simp [enterState]
@[simp] theorem enterState_engine (l : Slot) (st : SeqState) (why : Cause) (s : State) : (enterState l st why s).engine = s.engine := by
  simp [enterState]
@[simp] theorem enterState_draws (l : Slot) (st : SeqState) (why : Cause) (s : State) : (enterState l st why s).draws = s.draws := by
  simp [enterState]
@[simp] theorem enterState_regs (l : Slot) (st : SeqState) (why : Cause) (s : State) : (enterState l st why s).regs = s.regs := by
  simp [enterState]

@[simp] theorem enterState_slot_settings (l : Slot) (st : SeqState) (why : Cause) (s : State) (j : Slot) :
    ((enterState l st why s).slot j).settings = (s.slot j).settings := by
  simp [enterState]; split <;> simp_all
@[simp] theorem enterState_slot_gate (l : Slot) (st : SeqState) (why : Cause) (s : State) (j : Slot) :
    ((enterState l st why s).slot j).gate = (s.slot j).gate := by
  simp [enterState]; split <;> simp_all
@[simp] theorem enterState_slot_ring (l : Slot) (st : SeqState) (why : Cause) (s : State) (j : Slot) :
    ((enterState l st why s).slot j).ring = (s.slot j).ring := by
  simp [enterState]; split <;> simp_all
@[simp] theorem enterState_slot_hostOut (l : Slot) (st : SeqState) (why : Cause) (s : State) (j : Slot) :
    ((enterState l st why s).slot j).hostOut = (s.slot j).hostOut := by
  simp [enterState]; split <;> simp_all
@[simp] theorem enterState_slot_cardOut (l : Slot) (st : SeqState) (why : Cause) (s : State) (j : Slot) :
    ((enterState l st why s).slot j).cardOut = (s.slot j).cardOut := by
  simp [enterState]; split <;> simp_all

/-! ### startLimit -/

@[simp] theorem startLimit_pending (l : Slot) (d : Settings → DurCode) (s : State) : (startLimit l d s).pending = s.pending := by
  simp [startLimit]
@[simp] theorem startLimit_timebase (l : Slot) (d : Settings → DurCode) (s : State) : (startLimit l d s).timebase = s.timebase := by
  simp [startLimit]
@[simp] theorem startLimit_prt (l : Slot) (d : Settings → DurCode) (s : State) : (startLimit l d s).prt = s.prt := by
  simp [startLimit]
@[simp] theorem startLimit_arb (l : Slot) (d : Settings → DurCode) (s : State) : (startLimit l d s).arb = s.arb := by
  simp [startLimit]
@[simp] theorem startLimit_engine (l : Slot) (d : Settings → DurCode) (s : State) : (startLimit l d s).engine = s.engine := by
  simp [startLimit]
@[simp] theorem startLimit_draws (l : Slot) (d : Settings → DurCode) (s : State) : (startLimit l d s).draws = s.draws := by
  simp [startLimit]
@[simp] theorem startLimit_regs (l : Slot) (d : Settings → DurCode) (s : State) : (startLimit l d s).regs = s.regs := by
  simp [startLimit]

@[simp] theorem startLimit_slot_settings (l : Slot) (d : Settings → DurCode) (s : State) (j : Slot) :
    ((startLimit l d s).slot j).settings = (s.slot j).settings := by
  simp only [startLimit, State.modSeq_slot]; split <;> simp_all
@[simp] theorem startLimit_slot_gate (l : Slot) (d : Settings → DurCode) (s : State) (j : Slot) :
    ((startLimit l d s).slot j).gate = (s.slot j).gate := by
  simp only [startLimit, State.modSeq_slot]; split <;> simp_all
@[simp] theorem startLimit_slot_ring (l : Slot) (d : Settings → DurCode) (s : State) (j : Slot) :
    ((startLimit l d s).slot j).ring = (s.slot j).ring := by
  simp only [startLimit, State.modSeq_slot]; split <;> simp_all
@[simp] theorem startLimit_slot_hostOut (l : Slot) (d : Settings → DurCode) (s : State) (j : Slot) :
    ((startLimit l d s).slot j).hostOut = (s.slot j).hostOut := by
  simp only [startLimit, State.modSeq_slot]; split <;> simp_all
@[simp] theorem startLimit_slot_cardOut (l : Slot) (d : Settings → DurCode) (s : State) (j : Slot) :
    ((startLimit l d s).slot j).cardOut = (s.slot j).cardOut := by
  simp only [startLimit, State.modSeq_slot]; split <;> simp_all
@[simp] theorem startLimit_slot_meter (l : Slot) (d : Settings → DurCode) (s : State) (j : Slot) :
    ((startLimit l d s).slot j).meter = (s.slot j).meter := by
  simp only [startLimit, State.modSeq_slot]; split <;> simp_all
@[simp] theorem startLimit_slot_lines (l : Slot) (d : Settings → DurCode) (s : State) (j : Slot) :
    ((startLimit l d s).slot j).lines = (s.slot j).lines := by
  simp only [startLimit, State.modSeq_slot]; split <;> simp_all
@[simp] theorem startLimit_slot_probe (l : Slot) (d : Settings → DurCode) (s : State) (j : Slot) :
    ((startLimit l d s).slot j).probe = (s.slot j).probe := by
  simp only [startLimit, State.modSeq_slot]; split <;> simp_all

@[simp] theorem driveReset_pending (l : Slot) (a : Bool) (s : State) : (driveReset l a s).pending = s.pending := by
  unfold driveReset; refine eachSlot_keeps (fun t => t.pending) _ (fun m t => ?_) _ _; rfl
@[simp] theorem driveReset_timebase (l : Slot) (a : Bool) (s : State) : (driveReset l a s).timebase = s.timebase := by
  unfold driveReset; refine eachSlot_keeps (fun t => t.timebase) _ (fun m t => ?_) _ _; rfl
@[simp] theorem driveReset_prt (l : Slot) (a : Bool) (s : State) : (driveReset l a s).prt = s.prt := by
  unfold driveReset; refine eachSlot_keeps (fun t => t.prt) _ (fun m t => ?_) _ _; rfl
@[simp] theorem driveReset_arb (l : Slot) (a : Bool) (s : State) : (driveReset l a s).arb = s.arb := by
  unfold driveReset; refine eachSlot_keeps (fun t => t.arb) _ (fun m t => ?_) _ _; rfl
@[simp] theorem driveReset_engine (l : Slot) (a : Bool) (s : State) : (driveReset l a s).engine = s.engine := by
  unfold driveReset; refine eachSlot_keeps (fun t => t.engine) _ (fun m t => ?_) _ _; rfl
@[simp] theorem driveReset_draws (l : Slot) (a : Bool) (s : State) : (driveReset l a s).draws = s.draws := by
  unfold driveReset; refine eachSlot_keeps (fun t => t.draws) _ (fun m t => ?_) _ _; rfl
@[simp] theorem driveReset_regs (l : Slot) (a : Bool) (s : State) : (driveReset l a s).regs = s.regs := by
  unfold driveReset; refine eachSlot_keeps (fun t => t.regs) _ (fun m t => ?_) _ _; rfl
@[simp] theorem driveReset_slot_settings (l : Slot) (a : Bool) (s : State) (j : Slot) :
    ((driveReset l a s).slot j).settings = (s.slot j).settings := by
  unfold driveReset; refine eachSlot_keeps (fun t => (t.slot j).settings) _ (fun m t => ?_) _ _
  simp only [State.modLines_slot]; split <;> simp_all
@[simp] theorem driveReset_slot_gate (l : Slot) (a : Bool) (s : State) (j : Slot) :
    ((driveReset l a s).slot j).gate = (s.slot j).gate := by
  unfold driveReset; refine eachSlot_keeps (fun t => (t.slot j).gate) _ (fun m t => ?_) _ _
  simp only [State.modLines_slot]; split <;> simp_all
@[simp] theorem driveReset_slot_ring (l : Slot) (a : Bool) (s : State) (j : Slot) :
    ((driveReset l a s).slot j).ring = (s.slot j).ring := by
  unfold driveReset; refine eachSlot_keeps (fun t => (t.slot j).ring) _ (fun m t => ?_) _ _
  simp only [State.modLines_slot]; split <;> simp_all
@[simp] theorem driveReset_slot_hostOut (l : Slot) (a : Bool) (s : State) (j : Slot) :
    ((driveReset l a s).slot j).hostOut = (s.slot j).hostOut := by
  unfold driveReset; refine eachSlot_keeps (fun t => (t.slot j).hostOut) _ (fun m t => ?_) _ _
  simp only [State.modLines_slot]; split <;> simp_all
@[simp] theorem driveReset_slot_cardOut (l : Slot) (a : Bool) (s : State) (j : Slot) :
    ((driveReset l a s).slot j).cardOut = (s.slot j).cardOut := by
  unfold driveReset; refine eachSlot_keeps (fun t => (t.slot j).cardOut) _ (fun m t => ?_) _ _
  simp only [State.modLines_slot]; split <;> simp_all
@[simp] theorem driveReset_slot_meter (l : Slot) (a : Bool) (s : State) (j : Slot) :
    ((driveReset l a s).slot j).meter = (s.slot j).meter := by
  unfold driveReset; refine eachSlot_keeps (fun t => (t.slot j).meter) _ (fun m t => ?_) _ _
  simp only [State.modLines_slot]; split <;> simp_all
@[simp] theorem driveReset_slot_seq (l : Slot) (a : Bool) (s : State) (j : Slot) :
    ((driveReset l a s).slot j).seq = (s.slot j).seq := by
  unfold driveReset; refine eachSlot_keeps (fun t => (t.slot j).seq) _ (fun m t => ?_) _ _
  simp only [State.modLines_slot]; split <;> simp_all
@[simp] theorem driveReset_slot_probe (l : Slot) (a : Bool) (s : State) (j : Slot) :
    ((driveReset l a s).slot j).probe = (s.slot j).probe := by
  unfold driveReset; refine eachSlot_keeps (fun t => (t.slot j).probe) _ (fun m t => ?_) _ _
  simp only [State.modLines_slot]; split <;> simp_all

@[simp] theorem driveLink_pending (l : Slot) (a : Bool) (s : State) : (driveLink l a s).pending = s.pending := by
  unfold driveLink; refine eachSlot_keeps (fun t => t.pending) _ (fun m t => ?_) _ _; rfl
@[simp] theorem driveLink_timebase (l : Slot) (a : Bool) (s : State) : (driveLink l a s).timebase = s.timebase := by
  unfold driveLink; refine eachSlot_keeps (fun t => t.timebase) _ (fun m t => ?_) _ _; rfl
@[simp] theorem driveLink_prt (l : Slot) (a : Bool) (s : State) : (driveLink l a s).prt = s.prt := by
  unfold driveLink; refine eachSlot_keeps (fun t => t.prt) _ (fun m t => ?_) _ _; rfl
@[simp] theorem driveLink_arb (l : Slot) (a : Bool) (s : State) : (driveLink l a s).arb = s.arb := by
  unfold driveLink; refine eachSlot_keeps (fun t => t.arb) _ (fun m t => ?_) _ _; rfl
@[simp] theorem driveLink_engine (l : Slot) (a : Bool) (s : State) : (driveLink l a s).engine = s.engine := by
  unfold driveLink; refine eachSlot_keeps (fun t => t.engine) _ (fun m t => ?_) _ _; rfl
@[simp] theorem driveLink_draws (l : Slot) (a : Bool) (s : State) : (driveLink l a s).draws = s.draws := by
  unfold driveLink; refine eachSlot_keeps (fun t => t.draws) _ (fun m t => ?_) _ _; rfl
@[simp] theorem driveLink_regs (l : Slot) (a : Bool) (s : State) : (driveLink l a s).regs = s.regs := by
  unfold driveLink; refine eachSlot_keeps (fun t => t.regs) _ (fun m t => ?_) _ _; rfl
@[simp] theorem driveLink_slot_settings (l : Slot) (a : Bool) (s : State) (j : Slot) :
    ((driveLink l a s).slot j).settings = (s.slot j).settings := by
  unfold driveLink; refine eachSlot_keeps (fun t => (t.slot j).settings) _ (fun m t => ?_) _ _
  simp only [State.modLines_slot]; split <;> simp_all
@[simp] theorem driveLink_slot_gate (l : Slot) (a : Bool) (s : State) (j : Slot) :
    ((driveLink l a s).slot j).gate = (s.slot j).gate := by
  unfold driveLink; refine eachSlot_keeps (fun t => (t.slot j).gate) _ (fun m t => ?_) _ _
  simp only [State.modLines_slot]; split <;> simp_all
@[simp] theorem driveLink_slot_ring (l : Slot) (a : Bool) (s : State) (j : Slot) :
    ((driveLink l a s).slot j).ring = (s.slot j).ring := by
  unfold driveLink; refine eachSlot_keeps (fun t => (t.slot j).ring) _ (fun m t => ?_) _ _
  simp only [State.modLines_slot]; split <;> simp_all
@[simp] theorem driveLink_slot_hostOut (l : Slot) (a : Bool) (s : State) (j : Slot) :
    ((driveLink l a s).slot j).hostOut = (s.slot j).hostOut := by
  unfold driveLink; refine eachSlot_keeps (fun t => (t.slot j).hostOut) _ (fun m t => ?_) _ _
  simp only [State.modLines_slot]; split <;> simp_all
@[simp] theorem driveLink_slot_cardOut (l : Slot) (a : Bool) (s : State) (j : Slot) :
    ((driveLink l a s).slot j).cardOut = (s.slot j).cardOut := by
  unfold driveLink; refine eachSlot_keeps (fun t => (t.slot j).cardOut) _ (fun m t => ?_) _ _
  simp only [State.modLines_slot]; split <;> simp_all
@[simp] theorem driveLink_slot_meter (l : Slot) (a : Bool) (s : State) (j : Slot) :
    ((driveLink l a s).slot j).meter = (s.slot j).meter := by
  unfold driveLink; refine eachSlot_keeps (fun t => (t.slot j).meter) _ (fun m t => ?_) _ _
  simp only [State.modLines_slot]; split <;> simp_all
@[simp] theorem driveLink_slot_seq (l : Slot) (a : Bool) (s : State) (j : Slot) :
    ((driveLink l a s).slot j).seq = (s.slot j).seq := by
  unfold driveLink; refine eachSlot_keeps (fun t => (t.slot j).seq) _ (fun m t => ?_) _ _
  simp only [State.modLines_slot]; split <;> simp_all
@[simp] theorem driveLink_slot_probe (l : Slot) (a : Bool) (s : State) (j : Slot) :
    ((driveLink l a s).slot j).probe = (s.slot j).probe := by
  unfold driveLink; refine eachSlot_keeps (fun t => (t.slot j).probe) _ (fun m t => ?_) _ _
  simp only [State.modLines_slot]; split <;> simp_all

/-! ### railOff -/

@[simp] theorem railOff_pending (i : Slot) (s : State) : (railOff i s).pending = s.pending := by
  simp [railOff]
@[simp] theorem railOff_timebase (i : Slot) (s : State) : (railOff i s).timebase = s.timebase := by
  simp [railOff]
@[simp] theorem railOff_prt (i : Slot) (s : State) : (railOff i s).prt = s.prt := by
  simp [railOff]
@[simp] theorem railOff_arb (i : Slot) (s : State) : (railOff i s).arb = s.arb := by
  simp [railOff]
@[simp] theorem railOff_engine (i : Slot) (s : State) : (railOff i s).engine = s.engine := by
  simp [railOff]
@[simp] theorem railOff_draws (i : Slot) (s : State) : (railOff i s).draws = s.draws := by
  simp [railOff]
@[simp] theorem railOff_regs (i : Slot) (s : State) : (railOff i s).regs = s.regs := by
  simp [railOff]

@[simp] theorem railOff_slot_settings (i : Slot) (s : State) (j : Slot) :
    ((railOff i s).slot j).settings = (s.slot j).settings := by
  simp only [railOff, State.modLines_slot]; split <;> simp_all
@[simp] theorem railOff_slot_gate (i : Slot) (s : State) (j : Slot) :
    ((railOff i s).slot j).gate = (s.slot j).gate := by
  simp only [railOff, State.modLines_slot]; split <;> simp_all
@[simp] theorem railOff_slot_ring (i : Slot) (s : State) (j : Slot) :
    ((railOff i s).slot j).ring = (s.slot j).ring := by
  simp only [railOff, State.modLines_slot]; split <;> simp_all
@[simp] theorem railOff_slot_hostOut (i : Slot) (s : State) (j : Slot) :
    ((railOff i s).slot j).hostOut = (s.slot j).hostOut := by
  simp only [railOff, State.modLines_slot]; split <;> simp_all
@[simp] theorem railOff_slot_cardOut (i : Slot) (s : State) (j : Slot) :
    ((railOff i s).slot j).cardOut = (s.slot j).cardOut := by
  simp only [railOff, State.modLines_slot]; split <;> simp_all
@[simp] theorem railOff_slot_meter (i : Slot) (s : State) (j : Slot) :
    ((railOff i s).slot j).meter = (s.slot j).meter := by
  simp only [railOff, State.modLines_slot]; split <;> simp_all
@[simp] theorem railOff_slot_seq (i : Slot) (s : State) (j : Slot) :
    ((railOff i s).slot j).seq = (s.slot j).seq := by
  simp only [railOff, State.modLines_slot]; split <;> simp_all
@[simp] theorem railOff_slot_probe (i : Slot) (s : State) (j : Slot) :
    ((railOff i s).slot j).probe = (s.slot j).probe := by
  simp only [railOff, State.modLines_slot]; split <;> simp_all

/-! ### switchOff -/

@[simp] theorem switchOff_pending (l : Slot) (s : State) : (switchOff l s).pending = s.pending := by
  unfold switchOff; split <;> simp
@[simp] theorem switchOff_timebase (l : Slot) (s : State) : (switchOff l s).timebase = s.timebase := by
  unfold switchOff; split <;> simp
@[simp] theorem switchOff_prt (l : Slot) (s : State) : (switchOff l s).prt = s.prt := by
  unfold switchOff; split <;> simp
@[simp] theorem switchOff_arb (l : Slot) (s : State) : (switchOff l s).arb = s.arb := by
  unfold switchOff; split <;> simp
@[simp] theorem switchOff_engine (l : Slot) (s : State) : (switchOff l s).engine = s.engine := by
  unfold switchOff; split <;> simp
@[simp] theorem switchOff_draws (l : Slot) (s : State) : (switchOff l s).draws = s.draws := by
  unfold switchOff; split <;> simp
@[simp] theorem switchOff_regs (l : Slot) (s : State) : (switchOff l s).regs = s.regs := by
  unfold switchOff; split <;> simp

@[simp] theorem switchOff_slot_settings (l : Slot) (s : State) (j : Slot) :
    ((switchOff l s).slot j).settings = (s.slot j).settings := by
  unfold switchOff; split
  · simp only [State.modSeq_slot]; split <;> simp_all
  · rfl
@[simp] theorem switchOff_slot_gate (l : Slot) (s : State) (j : Slot) :
    ((switchOff l s).slot j).gate = (s.slot j).gate := by
  unfold switchOff; split
  · simp only [State.modSeq_slot]; split <;> simp_all
  · rfl
@[simp] theorem switchOff_slot_ring (l : Slot) (s : State) (j : Slot) :
    ((switchOff l s).slot j).ring = (s.slot j).ring := by
  unfold switchOff; split
  · simp only [State.modSeq_slot]; split <;> simp_all
  · rfl
@[simp] theorem switchOff_slot_hostOut (l : Slot) (s : State) (j : Slot) :
    ((switchOff l s).slot j).hostOut = (s.slot j).hostOut := by
  unfold switchOff; split
  · simp only [State.modSeq_slot]; split <;> simp_all
  · rfl
@[simp] theorem switchOff_slot_cardOut (l : Slot) (s : State) (j : Slot) :
    ((switchOff l s).slot j).cardOut = (s.slot j).cardOut := by
  unfold switchOff; split
  · simp only [State.modSeq_slot]; split <;> simp_all
  · rfl
@[simp] theorem switchOff_slot_meter (l : Slot) (s : State) (j : Slot) :
    ((switchOff l s).slot j).meter = (s.slot j).meter := by
  unfold switchOff; split
  · simp only [State.modSeq_slot]; split <;> simp_all
  · rfl
@[simp] theorem switchOff_slot_probe (l : Slot) (s : State) (j : Slot) :
    ((switchOff l s).slot j).probe = (s.slot j).probe := by
  unfold switchOff; split
  · simp only [State.modSeq_slot]; split <;> simp_all
  · rfl

/-! ### setScore -/

@[simp] theorem setScore_pending (i : Slot) (v : Nat) (s : State) : (setScore i v s).pending = s.pending := by
  unfold setScore; split <;> simp
@[simp] theorem setScore_timebase (i : Slot) (v : Nat) (s : State) : (setScore i v s).timebase = s.timebase := by
  unfold setScore; split <;> simp
@[simp] theorem setScore_prt (i : Slot) (v : Nat) (s : State) : (setScore i v s).prt = s.prt := by
  unfold setScore; split <;> simp
@[simp] theorem setScore_arb (i : Slot) (v : Nat) (s : State) : (setScore i v s).arb = s.arb := by
  unfold setScore; split <;> simp
@[simp] theorem setScore_engine (i : Slot) (v : Nat) (s : State) : (setScore i v s).engine = s.engine := by
  unfold setScore; split <;> simp
@[simp] theorem setScore_draws (i : Slot) (v : Nat) (s : State) : (setScore i v s).draws = s.draws := by
  unfold setScore; split <;> simp
@[simp] theorem setScore_regs (i : Slot) (v : Nat) (s : State) : (setScore i v s).regs = s.regs := by
  unfold setScore; split <;> simp

@[simp] theorem setScore_slot_settings (i : Slot) (v : Nat) (s : State) (j : Slot) :
    ((setScore i v s).slot j).settings = (s.slot j).settings := by
  unfold setScore; split
  · rfl
  · simp only [putHalf_slot, State.modMeter_slot]; split <;> simp_all
@[simp] theorem setScore_slot_gate (i : Slot) (v : Nat) (s : State) (j : Slot) :
    ((setScore i v s).slot j).gate = (s.slot j).gate := by
  unfold setScore; split
  · rfl
  · simp only [putHalf_slot, State.modMeter_slot]; split <;> simp_all
@[simp] theorem setScore_slot_ring (i : Slot) (v : Nat) (s : State) (j : Slot) :
    ((setScore i v s).slot j).ring = (s.slot j).ring := by
  unfold setScore; split
  · rfl
  · simp only [putHalf_slot, State.modMeter_slot]; split <;> simp_all
@[simp] theorem setScore_slot_hostOut (i : Slot) (v : Nat) (s : State) (j : Slot) :
    ((setScore i v s).slot j).hostOut = (s.slot j).hostOut := by
  unfold setScore; split
  · rfl
  · simp only [putHalf_slot, State.modMeter_slot]; split <;> simp_all
@[simp] theorem setScore_slot_cardOut (i : Slot) (v : Nat) (s : State) (j : Slot) :
    ((setScore i v s).slot j).cardOut = (s.slot j).cardOut := by
  unfold setScore; split
  · rfl
  · simp only [putHalf_slot, State.modMeter_slot]; split <;> simp_all
@[simp] theorem setScore_slot_seq (i : Slot) (v : Nat) (s : State) (j : Slot) :
    ((setScore i v s).slot j).seq = (s.slot j).seq := by
  unfold setScore; split
  · rfl
  · simp only [putHalf_slot, State.modMeter_slot]; split <;> simp_all
@[simp] theorem setScore_slot_lines (i : Slot) (v : Nat) (s : State) (j : Slot) :
    ((setScore i v s).slot j).lines = (s.slot j).lines := by
  unfold setScore; split
  · rfl
  · simp only [putHalf_slot, State.modMeter_slot]; split <;> simp_all
@[simp] theorem setScore_slot_probe (i : Slot) (v : Nat) (s : State) (j : Slot) :
    ((setScore i v s).slot j).probe = (s.slot j).probe := by
  unfold setScore; split
  · rfl
  · simp only [putHalf_slot, State.modMeter_slot]; split <;> simp_all

/-! ### meterOnline -/

@[simp] theorem meterOnline_pending (b : Bool) (i : Slot) (s : State) : (meterOnline b i s).pending = s.pending := by
  unfold meterOnline; cases b <;> simp
@[simp] theorem meterOnline_timebase (b : Bool) (i : Slot) (s : State) : (meterOnline b i s).timebase = s.timebase := by
  unfold meterOnline; cases b <;> simp
@[simp] theorem meterOnline_prt (b : Bool) (i : Slot) (s : State) : (meterOnline b i s).prt = s.prt := by
  unfold meterOnline; cases b <;> simp
@[simp] theorem meterOnline_arb (b : Bool) (i : Slot) (s : State) : (meterOnline b i s).arb = s.arb := by
  unfold meterOnline; cases b <;> simp
@[simp] theorem meterOnline_engine (b : Bool) (i : Slot) (s : State) : (meterOnline b i s).engine = s.engine := by
  unfold meterOnline; cases b <;> simp
@[simp] theorem meterOnline_draws (b : Bool) (i : Slot) (s : State) : (meterOnline b i s).draws = s.draws := by
  unfold meterOnline; cases b <;> simp
@[simp] theorem meterOnline_regs (b : Bool) (i : Slot) (s : State) : (meterOnline b i s).regs = s.regs := by
  unfold meterOnline; cases b <;> simp

@[simp] theorem meterOnline_slot_settings (b : Bool) (i : Slot) (s : State) (j : Slot) :
    ((meterOnline b i s).slot j).settings = (s.slot j).settings := by
  cases b
  · simp only [meterOnline, State.modMeter_slot]; split <;> simp_all
  · simp only [meterOnline, State.modMeter_slot]; split <;> simp_all
@[simp] theorem meterOnline_slot_gate (b : Bool) (i : Slot) (s : State) (j : Slot) :
    ((meterOnline b i s).slot j).gate = (s.slot j).gate := by
  cases b
  · simp only [meterOnline, State.modMeter_slot]; split <;> simp_all
  · simp only [meterOnline, State.modMeter_slot]; split <;> simp_all
@[simp] theorem meterOnline_slot_ring (b : Bool) (i : Slot) (s : State) (j : Slot) :
    ((meterOnline b i s).slot j).ring = (s.slot j).ring := by
  cases b
  · simp only [meterOnline, State.modMeter_slot]; split <;> simp_all
  · simp only [meterOnline, State.modMeter_slot]; split <;> simp_all
@[simp] theorem meterOnline_slot_hostOut (b : Bool) (i : Slot) (s : State) (j : Slot) :
    ((meterOnline b i s).slot j).hostOut = (s.slot j).hostOut := by
  cases b
  · simp only [meterOnline, State.modMeter_slot]; split <;> simp_all
  · simp only [meterOnline, State.modMeter_slot]; split <;> simp_all
@[simp] theorem meterOnline_slot_cardOut (b : Bool) (i : Slot) (s : State) (j : Slot) :
    ((meterOnline b i s).slot j).cardOut = (s.slot j).cardOut := by
  cases b
  · simp only [meterOnline, State.modMeter_slot]; split <;> simp_all
  · simp only [meterOnline, State.modMeter_slot]; split <;> simp_all
@[simp] theorem meterOnline_slot_seq (b : Bool) (i : Slot) (s : State) (j : Slot) :
    ((meterOnline b i s).slot j).seq = (s.slot j).seq := by
  cases b
  · simp only [meterOnline, State.modMeter_slot]; split <;> simp_all
  · simp only [meterOnline, State.modMeter_slot]; split <;> simp_all
@[simp] theorem meterOnline_slot_lines (b : Bool) (i : Slot) (s : State) (j : Slot) :
    ((meterOnline b i s).slot j).lines = (s.slot j).lines := by
  cases b
  · simp only [meterOnline, State.modMeter_slot]; split <;> simp_all
  · simp only [meterOnline, State.modMeter_slot]; split <;> simp_all
@[simp] theorem meterOnline_slot_probe (b : Bool) (i : Slot) (s : State) (j : Slot) :
    ((meterOnline b i s).slot j).probe = (s.slot j).probe := by
  cases b
  · simp only [meterOnline, State.modMeter_slot]; split <;> simp_all
  · simp only [meterOnline, State.modMeter_slot]; split <;> simp_all

/-! ### finishOrder -/

@[simp] theorem finishOrder_pending (l : Slot) (o : Order) (r : Result) (s : State) : (finishOrder l o r s).pending = s.pending := by
  simp [finishOrder]
@[simp] theorem finishOrder_timebase (l : Slot) (o : Order) (r : Result) (s : State) : (finishOrder l o r s).timebase = s.timebase := by
  simp [finishOrder]
@[simp] theorem finishOrder_prt (l : Slot) (o : Order) (r : Result) (s : State) : (finishOrder l o r s).prt = s.prt := by
  simp [finishOrder]
@[simp] theorem finishOrder_arb (l : Slot) (o : Order) (r : Result) (s : State) : (finishOrder l o r s).arb = s.arb := by
  simp [finishOrder]
@[simp] theorem finishOrder_engine (l : Slot) (o : Order) (r : Result) (s : State) : (finishOrder l o r s).engine = s.engine := by
  simp [finishOrder]
@[simp] theorem finishOrder_draws (l : Slot) (o : Order) (r : Result) (s : State) : (finishOrder l o r s).draws = s.draws := by
  simp [finishOrder]
@[simp] theorem finishOrder_slots (l : Slot) (o : Order) (r : Result) (s : State) : (finishOrder l o r s).slots = s.slots := by
  simp [finishOrder]
@[simp] theorem finishOrder_slot (l : Slot) (o : Order) (r : Result) (s : State) (j : Slot) : (finishOrder l o r s).slot j = s.slot j :=
  State.slot_congr (by simp) j

/-! ### closeCancel -/

@[simp] theorem closeCancel_pending (l : Slot) (w : Bool) (s : State) : (closeCancel l w s).pending = s.pending := by
  unfold closeCancel; cases w <;> simp
@[simp] theorem closeCancel_timebase (l : Slot) (w : Bool) (s : State) : (closeCancel l w s).timebase = s.timebase := by
  unfold closeCancel; cases w <;> simp
@[simp] theorem closeCancel_prt (l : Slot) (w : Bool) (s : State) : (closeCancel l w s).prt = s.prt := by
  unfold closeCancel; cases w <;> simp
@[simp] theorem closeCancel_arb (l : Slot) (w : Bool) (s : State) : (closeCancel l w s).arb = s.arb := by
  unfold closeCancel; cases w <;> simp
@[simp] theorem closeCancel_engine (l : Slot) (w : Bool) (s : State) : (closeCancel l w s).engine = s.engine := by
  unfold closeCancel; cases w <;> simp
@[simp] theorem closeCancel_draws (l : Slot) (w : Bool) (s : State) : (closeCancel l w s).draws = s.draws := by
  unfold closeCancel; cases w <;> simp

@[simp] theorem closeCancel_slot_settings (l : Slot) (w : Bool) (s : State) (j : Slot) :
    ((closeCancel l w s).slot j).settings = (s.slot j).settings := by
  unfold closeCancel; cases w <;> (simp only [State.modSeq_slot]; split <;> simp_all)
@[simp] theorem closeCancel_slot_gate (l : Slot) (w : Bool) (s : State) (j : Slot) :
    ((closeCancel l w s).slot j).gate = (s.slot j).gate := by
  unfold closeCancel; cases w <;> (simp only [State.modSeq_slot]; split <;> simp_all)
@[simp] theorem closeCancel_slot_ring (l : Slot) (w : Bool) (s : State) (j : Slot) :
    ((closeCancel l w s).slot j).ring = (s.slot j).ring := by
  unfold closeCancel; cases w <;> (simp only [State.modSeq_slot]; split <;> simp_all)
@[simp] theorem closeCancel_slot_hostOut (l : Slot) (w : Bool) (s : State) (j : Slot) :
    ((closeCancel l w s).slot j).hostOut = (s.slot j).hostOut := by
  unfold closeCancel; cases w <;> (simp only [State.modSeq_slot]; split <;> simp_all)
@[simp] theorem closeCancel_slot_cardOut (l : Slot) (w : Bool) (s : State) (j : Slot) :
    ((closeCancel l w s).slot j).cardOut = (s.slot j).cardOut := by
  unfold closeCancel; cases w <;> (simp only [State.modSeq_slot]; split <;> simp_all)
@[simp] theorem closeCancel_slot_meter (l : Slot) (w : Bool) (s : State) (j : Slot) :
    ((closeCancel l w s).slot j).meter = (s.slot j).meter := by
  unfold closeCancel; cases w <;> (simp only [State.modSeq_slot]; split <;> simp_all)
@[simp] theorem closeCancel_slot_lines (l : Slot) (w : Bool) (s : State) (j : Slot) :
    ((closeCancel l w s).slot j).lines = (s.slot j).lines := by
  unfold closeCancel; cases w <;> (simp only [State.modSeq_slot]; split <;> simp_all)
@[simp] theorem closeCancel_slot_probe (l : Slot) (w : Bool) (s : State) (j : Slot) :
    ((closeCancel l w s).slot j).probe = (s.slot j).probe := by
  unfold closeCancel; cases w <;> (simp only [State.modSeq_slot]; split <;> simp_all)

/-! ### reportEnd -/

@[simp] theorem reportEnd_pending (l : Slot) (r : Result) (s : State) : (reportEnd l r s).pending = s.pending := by
  unfold reportEnd; split <;> first | rfl | simp | (split <;> simp)
@[simp] theorem reportEnd_timebase (l : Slot) (r : Result) (s : State) : (reportEnd l r s).timebase = s.timebase := by
  unfold reportEnd; split <;> first | rfl | simp | (split <;> simp)
@[simp] theorem reportEnd_prt (l : Slot) (r : Result) (s : State) : (reportEnd l r s).prt = s.prt := by
  unfold reportEnd; split <;> first | rfl | simp | (split <;> simp)
@[simp] theorem reportEnd_arb (l : Slot) (r : Result) (s : State) : (reportEnd l r s).arb = s.arb := by
  unfold reportEnd; split <;> first | rfl | simp | (split <;> simp)
@[simp] theorem reportEnd_engine (l : Slot) (r : Result) (s : State) : (reportEnd l r s).engine = s.engine := by
  unfold reportEnd; split <;> first | rfl | simp | (split <;> simp)
@[simp] theorem reportEnd_draws (l : Slot) (r : Result) (s : State) : (reportEnd l r s).draws = s.draws := by
  unfold reportEnd; split <;> first | rfl | simp | (split <;> simp)
@[simp] theorem reportEnd_slots (l : Slot) (r : Result) (s : State) : (reportEnd l r s).slots = s.slots := by
  unfold reportEnd; split <;> first | rfl | simp | (split <;> simp)
@[simp] theorem reportEnd_slot (l : Slot) (r : Result) (s : State) (j : Slot) : (reportEnd l r s).slot j = s.slot j :=
  State.slot_congr (by simp) j

/-! ### endSequence -/

@[simp] theorem endSequence_pending (l : Slot) (r : Result) (s : State) : (endSequence l r s).pending = s.pending := by
  unfold endSequence; simp only []; split <;> simp
@[simp] theorem endSequence_timebase (l : Slot) (r : Result) (s : State) : (endSequence l r s).timebase = s.timebase := by
  unfold endSequence; simp only []; split <;> simp
@[simp] theorem endSequence_prt (l : Slot) (r : Result) (s : State) : (endSequence l r s).prt = s.prt := by
  unfold endSequence; simp only []; split <;> simp
@[simp] theorem endSequence_arb (l : Slot) (r : Result) (s : State) : (endSequence l r s).arb = s.arb := by
  unfold endSequence; simp only []; split <;> simp
@[simp] theorem endSequence_engine (l : Slot) (r : Result) (s : State) : (endSequence l r s).engine = s.engine := by
  unfold endSequence; simp only []; split <;> simp
@[simp] theorem endSequence_draws (l : Slot) (r : Result) (s : State) : (endSequence l r s).draws = s.draws := by
  unfold endSequence; simp only []; split <;> simp

@[simp] theorem endSequence_slot_settings (l : Slot) (r : Result) (s : State) (j : Slot) :
    ((endSequence l r s).slot j).settings = (s.slot j).settings := by
  unfold endSequence; simp only []; split <;> (simp only [closeCancel_slot_settings, State.modSeq_slot]; split <;> simp_all)
@[simp] theorem endSequence_slot_gate (l : Slot) (r : Result) (s : State) (j : Slot) :
    ((endSequence l r s).slot j).gate = (s.slot j).gate := by
  unfold endSequence; simp only []; split <;> (simp only [closeCancel_slot_gate, State.modSeq_slot]; split <;> simp_all)
@[simp] theorem endSequence_slot_ring (l : Slot) (r : Result) (s : State) (j : Slot) :
    ((endSequence l r s).slot j).ring = (s.slot j).ring := by
  unfold endSequence; simp only []; split <;> (simp only [closeCancel_slot_ring, State.modSeq_slot]; split <;> simp_all)
@[simp] theorem endSequence_slot_hostOut (l : Slot) (r : Result) (s : State) (j : Slot) :
    ((endSequence l r s).slot j).hostOut = (s.slot j).hostOut := by
  unfold endSequence; simp only []; split <;> (simp only [closeCancel_slot_hostOut, State.modSeq_slot]; split <;> simp_all)
@[simp] theorem endSequence_slot_cardOut (l : Slot) (r : Result) (s : State) (j : Slot) :
    ((endSequence l r s).slot j).cardOut = (s.slot j).cardOut := by
  unfold endSequence; simp only []; split <;> (simp only [closeCancel_slot_cardOut, State.modSeq_slot]; split <;> simp_all)
@[simp] theorem endSequence_slot_meter (l : Slot) (r : Result) (s : State) (j : Slot) :
    ((endSequence l r s).slot j).meter = (s.slot j).meter := by
  unfold endSequence; simp only []; split <;> (simp only [closeCancel_slot_meter, State.modSeq_slot]; split <;> simp_all)
@[simp] theorem endSequence_slot_lines (l : Slot) (r : Result) (s : State) (j : Slot) :
    ((endSequence l r s).slot j).lines = (s.slot j).lines := by
  unfold endSequence; simp only []; split <;> (simp only [closeCancel_slot_lines, State.modSeq_slot]; split <;> simp_all)
@[simp] theorem endSequence_slot_probe (l : Slot) (r : Result) (s : State) (j : Slot) :
    ((endSequence l r s).slot j).probe = (s.slot j).probe := by
  unfold endSequence; simp only []; split <;> (simp only [closeCancel_slot_probe, State.modSeq_slot]; split <;> simp_all)

/-! ### enterOnline -/

@[simp] theorem enterOnline_pending (l : Slot) (why : Cause) (b : Bool) (s : State) : (enterOnline l why b s).pending = s.pending := by
  simp [enterOnline]
@[simp] theorem enterOnline_timebase (l : Slot) (why : Cause) (b : Bool) (s : State) : (enterOnline l why b s).timebase = s.timebase := by
  simp [enterOnline]
@[simp] theorem enterOnline_prt (l : Slot) (why : Cause) (b : Bool) (s : State) : (enterOnline l why b s).prt = s.prt := by
  simp [enterOnline]
@[simp] theorem enterOnline_arb (l : Slot) (why : Cause) (b : Bool) (s : State) : (enterOnline l why b s).arb = s.arb := by
  simp [enterOnline]
@[simp] theorem enterOnline_engine (l : Slot) (why : Cause) (b : Bool) (s : State) : (enterOnline l why b s).engine = s.engine := by
  simp [enterOnline]
@[simp] theorem enterOnline_draws (l : Slot) (why : Cause) (b : Bool) (s : State) : (enterOnline l why b s).draws = s.draws := by
  simp [enterOnline]

@[simp] theorem enterOnline_slot_settings (l : Slot) (why : Cause) (b : Bool) (s : State) (j : Slot) :
    ((enterOnline l why b s).slot j).settings = (s.slot j).settings := by
  simp [enterOnline]; split <;> simp_all
@[simp] theorem enterOnline_slot_gate (l : Slot) (why : Cause) (b : Bool) (s : State) (j : Slot) :
    ((enterOnline l why b s).slot j).gate = (s.slot j).gate := by
  simp [enterOnline]; split <;> simp_all
@[simp] theorem enterOnline_slot_ring (l : Slot) (why : Cause) (b : Bool) (s : State) (j : Slot) :
    ((enterOnline l why b s).slot j).ring = (s.slot j).ring := by
  simp [enterOnline]; split <;> simp_all
@[simp] theorem enterOnline_slot_hostOut (l : Slot) (why : Cause) (b : Bool) (s : State) (j : Slot) :
    ((enterOnline l why b s).slot j).hostOut = (s.slot j).hostOut := by
  simp [enterOnline]; split <;> simp_all
@[simp] theorem enterOnline_slot_cardOut (l : Slot) (why : Cause) (b : Bool) (s : State) (j : Slot) :
    ((enterOnline l why b s).slot j).cardOut = (s.slot j).cardOut := by
  simp [enterOnline]; split <;> simp_all

/-! ### safePoint -/

@[simp] theorem safePoint_pending (l : Slot) (st : SeqState) (s : State) : (safePoint l st s).pending = s.pending := by
  simp [safePoint]
@[simp] theorem safePoint_timebase (l : Slot) (st : SeqState) (s : State) : (safePoint l st s).timebase = s.timebase := by
  simp [safePoint]
@[simp] theorem safePoint_prt (l : Slot) (st : SeqState) (s : State) : (safePoint l st s).prt = s.prt := by
  simp [safePoint]
@[simp] theorem safePoint_arb (l : Slot) (st : SeqState) (s : State) : (safePoint l st s).arb = s.arb := by
  simp [safePoint]
@[simp] theorem safePoint_engine (l : Slot) (st : SeqState) (s : State) : (safePoint l st s).engine = s.engine := by
  simp [safePoint]
@[simp] theorem safePoint_draws (l : Slot) (st : SeqState) (s : State) : (safePoint l st s).draws = s.draws := by
  simp [safePoint]
@[simp] theorem safePoint_slot_settings (l : Slot) (st : SeqState) (s : State) (j : Slot) :
    ((safePoint l st s).slot j).settings = (s.slot j).settings := by
  simp [safePoint]
@[simp] theorem safePoint_slot_gate (l : Slot) (st : SeqState) (s : State) (j : Slot) :
    ((safePoint l st s).slot j).gate = (s.slot j).gate := by
  simp [safePoint]
@[simp] theorem safePoint_slot_ring (l : Slot) (st : SeqState) (s : State) (j : Slot) :
    ((safePoint l st s).slot j).ring = (s.slot j).ring := by
  simp [safePoint]
@[simp] theorem safePoint_slot_hostOut (l : Slot) (st : SeqState) (s : State) (j : Slot) :
    ((safePoint l st s).slot j).hostOut = (s.slot j).hostOut := by
  simp [safePoint]
@[simp] theorem safePoint_slot_cardOut (l : Slot) (st : SeqState) (s : State) (j : Slot) :
    ((safePoint l st s).slot j).cardOut = (s.slot j).cardOut := by
  simp [safePoint]

/-! ### powerOff -/

@[simp] theorem powerOff_pending (l : Slot) (why : Cause) (s : State) : (powerOff l why s).pending = s.pending := by
  simp [powerOff]
@[simp] theorem powerOff_timebase (l : Slot) (why : Cause) (s : State) : (powerOff l why s).timebase = s.timebase := by
  simp [powerOff]
@[simp] theorem powerOff_prt (l : Slot) (why : Cause) (s : State) : (powerOff l why s).prt = s.prt := by
  simp [powerOff]
@[simp] theorem powerOff_arb (l : Slot) (why : Cause) (s : State) : (powerOff l why s).arb = s.arb := by
  simp [powerOff]
@[simp] theorem powerOff_engine (l : Slot) (why : Cause) (s : State) : (powerOff l why s).engine = s.engine := by
  simp [powerOff]
@[simp] theorem powerOff_draws (l : Slot) (why : Cause) (s : State) : (powerOff l why s).draws = s.draws := by
  simp [powerOff]
@[simp] theorem powerOff_regs (l : Slot) (why : Cause) (s : State) : (powerOff l why s).regs = s.regs := by
  simp [powerOff]
@[simp] theorem powerOff_slot_settings (l : Slot) (why : Cause) (s : State) (j : Slot) :
    ((powerOff l why s).slot j).settings = (s.slot j).settings := by
  simp [powerOff]
@[simp] theorem powerOff_slot_gate (l : Slot) (why : Cause) (s : State) (j : Slot) :
    ((powerOff l why s).slot j).gate = (s.slot j).gate := by
  simp [powerOff]
@[simp] theorem powerOff_slot_ring (l : Slot) (why : Cause) (s : State) (j : Slot) :
    ((powerOff l why s).slot j).ring = (s.slot j).ring := by
  simp [powerOff]
@[simp] theorem powerOff_slot_hostOut (l : Slot) (why : Cause) (s : State) (j : Slot) :
    ((powerOff l why s).slot j).hostOut = (s.slot j).hostOut := by
  simp [powerOff]
@[simp] theorem powerOff_slot_cardOut (l : Slot) (why : Cause) (s : State) (j : Slot) :
    ((powerOff l why s).slot j).cardOut = (s.slot j).cardOut := by
  simp [powerOff]

end Sys2Proof.Machine
end

