-- ==== Sys2Proof/Laws/Groups.lean ====
section
/-! SUPPORT. Groups (R102): a leader leads itself, the members of a group are the slots that have its leader,
and groups depend on the working settings alone. A loop over slots that works slot by slot. -/

namespace Sys2Proof.Machine

/-! ### Leaders and members -/

theorem leaderIndex_le (join : Nat → Bool) : ∀ n, leaderIndex join n ≤ n
  | 0 => Nat.le_refl 0
  | n + 1 => by
    unfold leaderIndex; split
    · exact Nat.le_succ_of_le (leaderIndex_le join n)
    · exact Nat.le_refl _

/-- The leader of a leader is itself. -/
theorem leaderIndex_idem (join : Nat → Bool) : ∀ n, leaderIndex join (leaderIndex join n) = leaderIndex join n
  | 0 => rfl
  | n + 1 => by
    cases h : join n with
    | true =>
      have e : leaderIndex join (n + 1) = leaderIndex join n := by simp [leaderIndex, h]
      rw [e]; exact leaderIndex_idem join n
    | false =>
      have e : leaderIndex join (n + 1) = n + 1 := by simp [leaderIndex, h]
      rw [e, e]

theorem leaderUnder_val (join : Nat → Bool) (i : Slot) : (leaderUnder join i).val = leaderIndex join i.val := by
  have h := leaderIndex_le join i.val
  have := i.isLt
  simp only [leaderUnder, Fin.ofNat]
  exact Nat.mod_eq_of_lt (by omega)

@[simp] theorem leaderUnder_idem (join : Nat → Bool) (i : Slot) :
    leaderUnder join (leaderUnder join i) = leaderUnder join i := by
  apply Fin.ext; rw [leaderUnder_val, leaderUnder_val, leaderIndex_idem]

@[simp] theorem State.leaderOf_leaderOf (s : State) (i : Slot) : s.leaderOf (s.leaderOf i) = s.leaderOf i :=
  leaderUnder_idem _ _

theorem mem_allSlots : ∀ i : Slot, i ∈ allSlots := by decide

@[simp] theorem mem_membersUnder (join : Nat → Bool) (l m : Slot) :
    m ∈ membersUnder join l ↔ leaderUnder join m = l := by
  simp [membersUnder, mem_allSlots]

@[simp] theorem State.mem_members (s : State) (l m : Slot) : m ∈ s.members l ↔ s.leaderOf m = l :=
  mem_membersUnder _ _ _

theorem State.members_nodup (s : State) (l : Slot) : (s.members l).Nodup :=
  List.Pairwise.filter _ (by decide : allSlots.Nodup)

/-- Groups depend on the working settings alone. -/
theorem State.leaderOf_congr {s t : State} (h : ∀ j, (t.slot j).settings = (s.slot j).settings) (i : Slot) :
    t.leaderOf i = s.leaderOf i := by
  have : t.joinFlag = s.joinFlag := by funext n; simp [State.joinFlag, h]
  unfold State.leaderOf; rw [this]

theorem State.members_congr {s t : State} (h : ∀ j, (t.slot j).settings = (s.slot j).settings) (l : Slot) :
    t.members l = s.members l := by
  have : t.joinFlag = s.joinFlag := by funext n; simp [State.joinFlag, h]
  unfold State.members; rw [this]

/-! ### Loops that work slot by slot -/

/-- A loop whose pass at `m` changes slot `m` alone, by `g m` as long as a property of the state holds that every
pass keeps. -/
theorem eachSlot_local (P : State → Prop) (f : Slot → State → State) (g : Slot → SlotRec → SlotRec)
    (hP : ∀ m t, P t → P (f m t))
    (hf : ∀ m t j, P t → (f m t).slot j = if j = m then g m (t.slot m) else t.slot j) :
    ∀ (l : List Slot) (s : State), l.Nodup → P s → ∀ j,
      (eachSlot l f s).slot j = if j ∈ l then g j (s.slot j) else s.slot j
  | [], s, _, _, j => by simp
  | m :: r, s, hn, hs, j => by
    rw [List.nodup_cons] at hn
    rw [eachSlot_cons, eachSlot_local P f g hP hf r (f m s) hn.2 (hP m s hs) j]
    by_cases hj : j = m
    · subst hj; simp [hn.1, hf _ _ _ hs]
    · simp [hj, hf _ _ _ hs]

end Sys2Proof.Machine
end

