-- ==== Sys2Proof/Laws/Writes.lean ====
section
/-! SUPPORT. Where the part writes exchange memory: one lemma per operation naming the areas that it may
write, with the laws by which they compose. -/

namespace Sys2Proof.Machine

/-- Going from `s` to `t` exchange memory changes in the given areas at most; it keeps its canonical form, and
READY stands as it did. -/
structure Wrote (areas : List (Nat × Nat)) (s t : State) : Prop where
  same : sameMemory areas s t
  wf : Memory.wf s.mem = true → Memory.wf t.mem = true
  ready : t.regs.ready = s.regs.ready

theorem Wrote.refl (areas : List (Nat × Nat)) (s : State) : Wrote areas s s := ⟨fun _ _ _ => rfl, id, rfl⟩

theorem Wrote.of_mem {s t : State} (areas : List (Nat × Nat)) (h : t.mem = s.mem)
    (hr : t.regs.ready = s.regs.ready) : Wrote areas s t :=
  ⟨fun a _ _ => readByte_of_mem s t h a, by rw [h]; exact id, hr⟩

theorem Wrote.trans {A B C : List (Nat × Nat)} {s t u : State} (h : Wrote A s t) (k : Wrote B t u)
    (hA : A ⊆ C) (hB : B ⊆ C) : Wrote C s u where
  same a ha hr := by
    rw [k.same a ha fun r m => hr r (hB m), h.same a ha fun r m => hr r (hA m)]
  wf x := k.wf (h.wf x)
  ready := by rw [k.ready, h.ready]

theorem Wrote.mono {A C : List (Nat × Nat)} {s t : State} (h : Wrote A s t) (hA : A ⊆ C) : Wrote C s t :=
  ⟨fun a ha hr => h.same a ha fun r m => hr r (hA m), h.wf, h.ready⟩

/-- A word outside the areas reads as it did. -/
theorem Wrote.readWord {A : List (Nat × Nat)} {s t : State} (h : Wrote A s t) (a : Nat) (ha : a + 4 ≤ 65536)
    (hd : ∀ r ∈ A, a + 4 ≤ r.1 ∨ r.1 + r.2 ≤ a) : t.readWord a = s.readWord a :=
  readWord_congr s t a fun k hk => h.same (a + k) (by omega) fun r m => by have := hd r m; omega

/-- A half word is the lower half of its two bytes. -/
theorem readHalf_eq (s : State) (a : Nat) : s.readHalf a = s.readByte (a + 1) ++ s.readByte a := by
  unfold State.readHalf State.readWord wordOfBytes
  apply BitVec.eq_of_getLsbD_eq
  intro i hi
  simp only [BitVec.getLsbD_setWidth, BitVec.getLsbD_append, hi, decide_true, Bool.true_and]
  by_cases h1 : i < 8
  · simp [h1]
  · have : i - 8 < 8 := by omega
    simp [h1, this]

/-- A half word outside the areas reads as it did. -/
theorem Wrote.readHalf {A : List (Nat × Nat)} {s t : State} (h : Wrote A s t) (a : Nat) (ha : a + 2 ≤ 65536)
    (hd : ∀ r ∈ A, a + 2 ≤ r.1 ∨ r.1 + r.2 ≤ a) : t.readHalf a = s.readHalf a := by
  have f : ∀ k, k < 2 → t.readByte (a + k) = s.readByte (a + k) := fun k hk =>
    h.same (a + k) (by omega) fun r m => by have := hd r m; omega
  rw [readHalf_eq, readHalf_eq, f 1 (by omega), show t.readByte a = s.readByte a from f 0 (by omega)]

/-! ### Stores -/

theorem putWord_wrote (a : Nat) (w : Word) (s : State) (h : a + 4 ≤ 65536) : Wrote [(a, 4)] s (putWord a w s) where
  same x hx hr := readByte_putWord_ne s a x w fun k hk => by
    have := hr (a, 4) (List.mem_singleton.2 rfl); simp only at this; omega
  wf := putWord_wf s a w
  ready := by simp

theorem putHalf_wrote (a : Nat) (w : Half) (s : State) (h : a + 2 ≤ 65536) : Wrote [(a, 2)] s (putHalf a w s) where
  same x hx hr := readByte_putHalf_ne s a x w fun k hk => by
    have := hr (a, 2) (List.mem_singleton.2 rfl); simp only at this; omega
  wf := putHalf_wf s a w
  ready := by simp

theorem putWords_wrote (a : Nat) (l : List Word) (s : State) (h : a + 4 * l.length ≤ 65536) :
    Wrote [(a, 4 * l.length)] s (putWords a l s) where
  same x hx hr := readByte_putWords_ne a l s x fun k hk => by
    have := hr (a, 4 * l.length) (List.mem_singleton.2 rfl); simp only at this; omega
  wf := putWords_wf a l s
  ready := by simp

theorem readHalf_putHalf (s : State) (a : Nat) (w : Half) (h : Memory.wf s.mem = true) (hr : s.regs.ready = true) :
    (putHalf a w s).readHalf a = w := by
  rw [readHalf_eq]; unfold putHalf; rw [if_pos hr]; unfold State.storeHalf
  have h0 := storeByte_wf s a (byteOf (w.setWidth 32) 0) h
  rw [readByte_storeByte _ _ _ _ h0, readByte_storeByte _ _ _ _ h0, readByte_storeByte _ _ _ _ h,
    readByte_storeByte _ _ _ _ h]
  have e : ¬ a % 65536 = (a + 1) % 65536 := by omega
  simp only [e, if_false, if_true]
  apply BitVec.eq_of_getLsbD_eq
  intro i hi
  simp only [byteOf, BitVec.getLsbD_append, BitVec.getLsbD_setWidth, BitVec.getLsbD_ushiftRight]
  by_cases h1 : i < 8
  · simp [h1]; omega
  · have a0 : i < 32 := by omega
    have a1 : i - 8 < 8 := by omega
    have a2 : 8 + (i - 8) = i := by omega
    simp [h1, a0, a1, a2]

theorem slotBase_bound (i : Slot) : 256 ≤ slotBase i ∧ slotBase i ≤ 3840 := by
  have := i.isLt; unfold slotBase; omega

/-- Slot records lie 512 bytes apart. -/
theorem slotBase_apart {i j : Slot} (h : i ≠ j) : slotBase i + 512 ≤ slotBase j ∨ slotBase j + 512 ≤ slotBase i := by
  have : i.val ≠ j.val := fun e => h (Fin.ext e)
  unfold slotBase; omega

theorem noticeArea_bound (s : State) : 4352 ≤ (noticeArea s).1 ∧ (noticeArea s).1 + 16 ≤ 6400 := by
  simp only [noticeArea, noticeAddress]; omega

/-! ### Operations -/

theorem syncSlot_wrote (i : Slot) (s : State) : Wrote [(slotBase i + 0x54, 16)] s (syncSlot i s) := by
  have hb := slotBase_bound i
  have inner : ∀ (A : List (Nat × Nat)) (t u : State), Wrote A t u →
      (∀ r ∈ A, slotBase i + 0x54 ≤ r.1 ∧ r.1 + r.2 ≤ slotBase i + 0x64) → Wrote [(slotBase i + 0x54, 16)] t u := by
    intro A t u h hA
    refine ⟨fun a ha hr => h.same a ha fun r m => ?_, h.wf, h.ready⟩
    have := hr _ (List.mem_singleton.2 rfl); have := hA r m; simp only at *; omega
  have e1 := fun w u => inner _ _ _ (putWord_wrote (slotBase i + 0x54) w u (by omega)) (by simp)
  have e2 := fun w u => inner _ _ _ (putHalf_wrote (slotBase i + 0x5A) w u (by omega)) (by simp)
  have e3 := fun w u => inner _ _ _ (putWord_wrote (slotBase i + 0x5C) w u (by omega)) (by simp)
  have e4 := fun w u => inner _ _ _ (putWord_wrote (slotBase i + 0x60) w u (by omega)) (by simp)
  have sub : [(slotBase i + 0x54, 16)] ⊆ [(slotBase i + 0x54, 16)] := fun _ h => h
  unfold syncSlot
  exact (e1 _ s).trans ((e2 _ _).trans ((e3 _ _).trans (e4 _ _) sub sub) sub sub) sub sub

theorem eachSlot_wrote (A : Slot → List (Nat × Nat)) (f : Slot → State → State)
    (h : ∀ m t, Wrote (A m) t (f m t)) (l : List Slot) (s : State) :
    Wrote (l.flatMap A) s (eachSlot l f s) := by
  induction l generalizing s with
  | nil => exact Wrote.refl _ s
  | cons m r ih =>
    exact (h m s).trans (ih (f m s)) (by intro x hx; simp; exact .inl hx)
      (by intro x hx; simp only [List.flatMap_cons, List.mem_append]; exact .inr hx)

theorem syncGroup_wrote (l : Slot) (s : State) : Wrote (memberAreas l s) s (syncGroup l s) :=
  (eachSlot_wrote (fun m => [(slotBase m + 0x54, 16)]) syncSlot syncSlot_wrote _ s).mono (by
    intro r hr; simpa [memberAreas, List.mem_flatMap, eq_comm] using hr)

theorem writeOutcome_wrote (i : Slot) (r : Result) (o : Order) (s : State) :
    Wrote [(slotBase i + 0x50, 4)] s (writeOutcome i r o s) :=
  putWord_wrote _ _ s (by have := slotBase_bound i; omega)

theorem raiseCause_wrote (b : BitVec 2) (s : State) : Wrote [] s (raiseCause b s) := Wrote.of_mem _ rfl rfl

theorem postNotice_wrote (k : NoticeKind) (slot code result : Nat) (d : Word) (s : State) :
    Wrote [noticeArea s] s (postNotice k slot code result d s) := by
  have hb := noticeArea_bound s
  unfold postNotice
  split
  · have h := putWords_wrote (noticeAddress s.regs.produce)
      [packBytes k.code slot code (code / 256), BitVec.ofNat 32 result, s.timebase, d] s
      (by simp only [noticeArea] at hb; simp; omega)
    generalize putWords _ _ s = t at h ⊢
    have h' : Wrote [noticeArea s] s { t with regs := { t.regs with produce := t.regs.produce + 1 } } :=
      ⟨h.same, h.wf, h.ready⟩
    dsimp only
    split
    · exact h'.trans (raiseCause_wrote _ _) (fun _ x => x) (List.nil_subset _)
    · exact h'
  · exact (raiseCause_wrote _ s).mono (List.nil_subset _)

theorem postOrderDone_wrote (slot code : Nat) (r : Result) (d : Word) (s : State) :
    Wrote [noticeArea s] s (postOrderDone slot code r d s) := postNotice_wrote _ _ _ _ _ s

/-! ### What the sequencer fields show (R106) -/

/-- A member's outcome area after `syncSlot` shows the record that drives it. -/
theorem syncSlot_shows (i : Slot) (s : State) (hw : Memory.wf s.mem = true) (hr : s.regs.ready = true) :
    (syncSlot i s).readWord (slotBase i + 0x54) = statusWord (s.seqOf i) ∧
    (syncSlot i s).readHalf (slotBase i + 0x5A) = flagsHalf (s.seqOf i) (s.slot i).lines ∧
    (syncSlot i s).readWord (slotBase i + 0x5C) = packHalves (s.seqOf i).cause.code 0 ∧
    (syncSlot i s).readWord (slotBase i + 0x60) = (s.seqOf i).causeStamp := by
  have hb := slotBase_bound i
  unfold syncSlot
  dsimp only
  have w1 := putWord_wrote (slotBase i + 0x54) (statusWord (s.seqOf i)) s (by omega)
  generalize h1 : putWord (slotBase i + 0x54) (statusWord (s.seqOf i)) s = s1 at *
  have r1 : s1.readWord (slotBase i + 0x54) = statusWord (s.seqOf i) := by
    rw [← h1]; exact readWord_putWord s _ _ hw hr
  have w2 := putHalf_wrote (slotBase i + 0x5A) (flagsHalf (s.seqOf i) (s.slot i).lines) s1 (by omega)
  generalize h2 : putHalf (slotBase i + 0x5A) (flagsHalf (s.seqOf i) (s.slot i).lines) s1 = s2 at *
  have r2 : s2.readHalf (slotBase i + 0x5A) = flagsHalf (s.seqOf i) (s.slot i).lines := by
    rw [← h2]; exact readHalf_putHalf s1 _ _ (w1.wf hw) (by rw [w1.ready, hr])
  have w3 := putWord_wrote (slotBase i + 0x5C) (packHalves (s.seqOf i).cause.code 0) s2 (by omega)
  generalize h3 : putWord (slotBase i + 0x5C) (packHalves (s.seqOf i).cause.code 0) s2 = s3 at *
  have r3 : s3.readWord (slotBase i + 0x5C) = packHalves (s.seqOf i).cause.code 0 := by
    rw [← h3]; exact readWord_putWord s2 _ _ (w2.wf (w1.wf hw)) (by rw [w2.ready, w1.ready, hr])
  have w4 := putWord_wrote (slotBase i + 0x60) (s.seqOf i).causeStamp s3 (by omega)
  generalize h4 : putWord (slotBase i + 0x60) (s.seqOf i).causeStamp s3 = s4 at *
  have r4 : s4.readWord (slotBase i + 0x60) = (s.seqOf i).causeStamp := by
    rw [← h4]; exact readWord_putWord s3 _ _ (w3.wf (w2.wf (w1.wf hw))) (by rw [w3.ready, w2.ready, w1.ready, hr])
  refine ⟨?_, ?_, ?_, r4⟩
  · rw [w4.readWord _ (by omega) (by simp), w3.readWord _ (by omega) (by simp), w2.readWord _ (by omega) (by simp), r1]
  · rw [w4.readHalf _ (by omega) (by simp), w3.readHalf _ (by omega) (by simp), r2]
  · rw [w4.readWord _ (by omega) (by simp), r3]

/-- After `syncGroup` the outcome area of every member shows the leader's record. -/
theorem syncGroup_shown (l : Slot) (s t : State) (hs : t.regs.ready = s.regs.ready)
    (hm : Memory.wf s.mem = true → Memory.wf t.mem = true) (hg : ∀ j, (t.slot j).settings = (s.slot j).settings) :
    GroupShown l s (syncGroup l t) := by
  intro hr hw m hl
  have key : ∀ (L : List Slot) (u : State), L.Nodup → u.slots = t.slots → u.regs.ready = true →
      Memory.wf u.mem = true → m ∈ L →
      (eachSlot L syncSlot u).readWord (slotBase m + 0x54) = statusWord (t.seqOf m) ∧
      (eachSlot L syncSlot u).readHalf (slotBase m + 0x5A) = flagsHalf (t.seqOf m) (t.slot m).lines ∧
      (eachSlot L syncSlot u).readWord (slotBase m + 0x5C) = packHalves (t.seqOf m).cause.code 0 ∧
      (eachSlot L syncSlot u).readWord (slotBase m + 0x60) = (t.seqOf m).causeStamp := by
    intro L
    induction L with
    | nil => intro u _ _ _ _ h; simp at h
    | cons a r ih =>
      intro u hn hu hur huw hm
      rw [List.nodup_cons] at hn
      have w := syncSlot_wrote a u
      rw [eachSlot_cons]
      have hus : ∀ j, u.slot j = t.slot j := fun j => State.slot_congr hu j
      by_cases e : m = a
      · subst e
        have sh := syncSlot_shows m u huw hur
        have es : u.seqOf m = t.seqOf m := by
          unfold State.seqOf; rw [State.leaderOf_congr (s := t) (t := u) (fun j => by rw [hus j]), hus]
        rw [es, hus m] at sh
        have W := eachSlot_wrote (fun m => [(slotBase m + 0x54, 16)]) syncSlot syncSlot_wrote r (syncSlot m u)
        have hb := slotBase_bound m
        have dis : ∀ q ∈ r.flatMap (fun m => [(slotBase m + 0x54, 16)]),
            slotBase m + 0x64 ≤ q.1 ∨ q.1 + q.2 ≤ slotBase m + 0x54 := by
          intro q hq
          simp only [List.mem_flatMap, List.mem_singleton] at hq
          obtain ⟨x, hx, rfl⟩ := hq
          have : m ≠ x := fun h => hn.1 (h ▸ hx)
          have := slotBase_apart this
          simp only; omega
        refine ⟨?_, ?_, ?_, ?_⟩
        · rw [W.readWord _ (by omega) (fun q hq => by have := dis q hq; omega), sh.1]
        · rw [W.readHalf _ (by omega) (fun q hq => by have := dis q hq; omega), sh.2.1]
        · rw [W.readWord _ (by omega) (fun q hq => by have := dis q hq; omega), sh.2.2.1]
        · rw [W.readWord _ (by omega) (fun q hq => by have := dis q hq; omega), sh.2.2.2]
      · refine ih (syncSlot a u) hn.2 (by simp [hu]) (by rw [w.ready, hur]) (w.wf huw) ?_
        simpa [e] using hm
  have hl' : t.leaderOf m = l := by rw [State.leaderOf_congr hg]; exact hl
  have K := key (t.members l) t (t.members_nodup l) rfl (by rw [hs, hr]) (hm hw) (by simp [hl'])
  have es : t.seqOf m = (t.slot l).seq := by unfold State.seqOf; rw [hl']
  rw [es] at K
  simpa [syncGroup] using K

end Sys2Proof.Machine
end

