-- ==== Sys2Proof/Laws/Entry.lean ====
section
/-! SUPPORT. What a change of state and the line drives do, once for each operation: every slot's record
after it, and where it writes. -/

namespace Sys2Proof.Machine

/-! ### Leaders and members stay under every operation that keeps the settings -/

@[simp] theorem enterState_leaderOf (l : Slot) (st : SeqState) (why : Cause) (s : State) (i : Slot) :
    (enterState l st why s).leaderOf i = s.leaderOf i := State.leaderOf_congr (fun j => by simp) i

@[simp] theorem enterState_members (l : Slot) (st : SeqState) (why : Cause) (s : State) (i : Slot) :
    (enterState l st why s).members i = s.members i := State.members_congr (fun j => by simp) i

@[simp] theorem modSeq_settings (s : State) (i j : Slot) (f : Sequencer → Sequencer) :
    ((s.modSeq i f).slot j).settings = (s.slot j).settings := by
  simp only [State.modSeq_slot]; split <;> simp_all

@[simp] theorem modSeq_members (s : State) (i l : Slot) (f : Sequencer → Sequencer) :
    (s.modSeq i f).members l = s.members l := State.members_congr (fun j => modSeq_settings s i j f) l

@[simp] theorem modSeq_leaderOf (s : State) (i j : Slot) (f : Sequencer → Sequencer) :
    (s.modSeq i f).leaderOf j = s.leaderOf j := State.leaderOf_congr (fun j => modSeq_settings s i j f) j

@[simp] theorem modLines_settings (s : State) (i j : Slot) (f : Lines → Lines) :
    ((s.modLines i f).slot j).settings = (s.slot j).settings := by
  simp only [State.modLines_slot]; split <;> simp_all

@[simp] theorem modLines_seq (s : State) (i j : Slot) (f : Lines → Lines) :
    ((s.modLines i f).slot j).seq = (s.slot j).seq := by
  simp only [State.modLines_slot]; split <;> simp_all

@[simp] theorem modLines_members (s : State) (i l : Slot) (f : Lines → Lines) :
    (s.modLines i f).members l = s.members l := State.members_congr (fun j => modLines_settings s i j f) l

@[simp] theorem modLines_leaderOf (s : State) (i j : Slot) (f : Lines → Lines) :
    (s.modLines i f).leaderOf j = s.leaderOf j := State.leaderOf_congr (fun j => modLines_settings s i j f) j

/-! ### Changes of state -/

/-- The records after a member's part of a change of state. -/
theorem enterMember_slot (st : SeqState) (m j : Slot) (s : State) :
    (enterMember st m s).slot j =
      if j = m then { s.slot m with
        probe := none
        meter := { (s.slot m).meter with
          decay := if st = .online ∨ st = .draining then (s.slot m).meter.decay else none }
        lines := { (s.slot m).lines with
          risen := false, dwell := none, dwellEnded := false
          indicator := (s.slot m).lines.indicator.select
            (patternFor (s.stateOf m) (s.slot m).lines.locate) s.timebase } }
      else s.slot j := by
  unfold enterMember refreshIndicator
  dsimp only
  have e : ∀ f : SlotRec → SlotRec, (∀ r, (f r).seq = r.seq) → (∀ r, (f r).settings = r.settings) →
      (s.modSlot m f).stateOf m = s.stateOf m := by
    intro f h1 h2
    unfold State.stateOf State.seqOf
    rw [State.leaderOf_congr (s := s) (fun j => by simp only [State.modSlot_slot]; split <;> simp_all)]
    simp only [State.modSlot_slot]; split <;> simp_all
  simp only [State.modLines_slot, State.modSlot_slot]
  rw [e _ (by intro r; rfl) (by intro r; rfl)]
  by_cases h : j = m <;> simp [h]

/-- Every slot's record after a change of state (R72). -/
theorem enterState_slot (l : Slot) (st : SeqState) (why : Cause) (s : State) (j : Slot) :
    (enterState l st why s).slot j =
      if s.leaderOf j = l then
        { (s.slot j).enters st s.timebase with
          seq := if j = l then (s.slot l).seq.enters st why s.timebase else (s.slot j).seq }
      else if j = l then { s.slot j with seq := (s.slot l).seq.enters st why s.timebase }
      else s.slot j := by
  unfold enterState
  simp only [syncGroup_slot, modSeq_members]
  have main := eachSlot_local
    (fun t => (t.slot l).seq.state = st ∧ (∀ j, (t.slot j).settings = (s.slot j).settings) ∧ t.timebase = s.timebase)
    (fun m t => if s.leaderOf m = l then enterMember st m t else t)
    (fun m r => if s.leaderOf m = l then r.enters st s.timebase else r)
    (by
      intro m t h
      split
      · exact ⟨by simpa using h.1, fun j => by simpa using h.2.1 j, by simpa using h.2.2⟩
      · exact h)
    (by
      intro m t j h
      split
      · rename_i hm
        have hl : t.leaderOf m = l := by rw [State.leaderOf_congr h.2.1]; exact hm
        rw [enterMember_slot]
        have : t.stateOf m = st := by unfold State.stateOf State.seqOf; rw [hl]; exact h.1
        rw [this, h.2.2]; rfl
      · split <;> simp_all)
    (s.members l) (s.modSeq l fun q => { q with
      state := st, cause := why, causeStamp := s.timebase, destination := none, limit := none
      probeLimitPassed := false, fixedOutcome := none, railKept := q.railKept && st == .failed })
    (s.members_nodup l) ⟨by simp, fun j => modSeq_settings s l j _, by simp⟩ j
  have same : ∀ (L : List Slot) (t : State), (∀ m ∈ L, s.leaderOf m = l) →
      eachSlot L (fun m t => if s.leaderOf m = l then enterMember st m t else t) t = eachSlot L (enterMember st) t := by
    intro L
    induction L with
    | nil => intros; rfl
    | cons a r ih =>
      intro t h
      rw [eachSlot_cons, eachSlot_cons, if_pos (h a (by simp)), ih _ (fun m hm => h m (by simp [hm]))]
  rw [same _ _ (fun m hm => (s.mem_members l m).1 hm)] at main
  rw [main]
  simp only [State.mem_members, State.modSeq_slot]
  by_cases h2 : j = l
  · subst h2
    by_cases h1 : s.leaderOf j = j <;> simp [h1, SlotRec.enters, Sequencer.enters]
  · by_cases h1 : s.leaderOf j = l <;> simp [h1, h2, SlotRec.enters]

/-- A group whose leader is `l` has entered the state. -/
theorem enterState_entered (l : Slot) (st : SeqState) (why : Cause) (s : State) (h : s.leaderOf l = l) :
    GroupEntered l st ((s.slot l).seq.enters st why s.timebase) id s (enterState l st why s) := by
  constructor
  · intro m hm; rw [enterState_slot, if_pos hm]; rfl
  · intro j hj
    rw [enterState_slot, if_neg hj, if_neg (fun e : j = l => hj (e ▸ h))]

theorem enterState_wrote (l : Slot) (st : SeqState) (why : Cause) (s : State) :
    Wrote (memberAreas l s) s (enterState l st why s) := by
  unfold enterState
  dsimp only
  generalize hu : eachSlot _ (enterMember st) _ = u
  have hm : u.mem = s.mem := by
    rw [← hu]
    refine (eachSlot_keeps (fun t => t.mem) _ (fun m t => ?_) _ _).trans rfl
    rfl
  have hr : u.regs = s.regs := by rw [← hu]; simp
  have hs : ∀ j, (u.slot j).settings = (s.slot j).settings := by intro j; rw [← hu]; rw [eachSlot_slot_settings _ _ _ _ (fun m t => enterMember_slot_settings _ _ _ _)]; exact modSeq_settings _ _ _ _
  have w := syncGroup_wrote l u
  have e : memberAreas l u = memberAreas l s := by unfold memberAreas; rw [State.members_congr hs]
  rw [e] at w
  exact (Wrote.of_mem [] hm (by rw [hr])).trans w (List.nil_subset _) (fun _ h => h)

theorem enterState_shown (l : Slot) (st : SeqState) (why : Cause) (s : State) :
    GroupShown l s (enterState l st why s) := by
  unfold enterState
  dsimp only
  refine syncGroup_shown l s _ (by simp) ?_ (by
    intro j; rw [eachSlot_slot_settings _ _ _ _ (fun m t => enterMember_slot_settings _ _ _ _)]
    exact modSeq_settings _ _ _ _)
  intro h
  rw [eachSlot_keeps (fun t => t.mem) (enterMember st) (fun m t => rfl)]
  exact h

/-! ### Line drives -/

theorem driveReset_slot (l : Slot) (a : Bool) (s : State) (j : Slot) :
    (driveReset l a s).slot j =
      if s.leaderOf j = l then { s.slot j with lines := { (s.slot j).lines with resetAsserted := a } } else s.slot j := by
  unfold driveReset
  rw [eachSlot_local (fun _ => True) _ (fun _ r => { r with lines := { r.lines with resetAsserted := a } })
    (fun _ _ _ => trivial) (fun m t j _ => by simp only [State.modLines_slot]) _ s (s.members_nodup l) trivial]
  simp only [State.mem_members]

theorem driveLink_slot (l : Slot) (a : Bool) (s : State) (j : Slot) :
    (driveLink l a s).slot j =
      if s.leaderOf j = l then { s.slot j with lines := { (s.slot j).lines with linkDisabled := a } } else s.slot j := by
  unfold driveLink
  rw [eachSlot_local (fun _ => True) _ (fun _ r => { r with lines := { r.lines with linkDisabled := a } })
    (fun _ _ _ => trivial) (fun m t j _ => by simp only [State.modLines_slot]) _ s (s.members_nodup l) trivial]
  simp only [State.mem_members]

theorem groupRail_true (s : State) (l : Slot) :
    s.groupRail l = true ↔ ∃ m, s.leaderOf m = l ∧ (s.slot m).lines.rail = true := by
  simp [State.groupRail]

/-- The records after the group's rails have been switched off (R73, R119). -/
theorem switchOff_slot (l : Slot) (s : State) (j : Slot) (hl : s.leaderOf l = l) :
    (switchOff l s).slot j =
      { s.slot j with
        lines := if s.groupRail l = true ∧ s.leaderOf j = l then (s.slot j).lines.cut else (s.slot j).lines
        seq := if j = l then
            (s.slot l).seq.discharges (s.groupRail l) (s.slot l).settings.dischargeDwell s.timebase
          else (s.slot j).seq } := by
  unfold switchOff
  split
  · rename_i h
    rw [State.modSeq_slot]
    have e : ∀ j, (eachSlot (s.members l) railOff s).slot j =
        if j ∈ s.members l then { s.slot j with lines := (s.slot j).lines.cut } else s.slot j := fun j =>
      eachSlot_local (fun _ => True) railOff (fun _ r => { r with lines := r.lines.cut })
        (fun _ _ _ => trivial) (fun m t j _ => by simp only [railOff, State.modLines_slot]; rfl) _ s
        (s.members_nodup l) trivial j
    by_cases hj : j = l
    · subst hj; simp [e, hl, h, Sequencer.discharges, State.startTimer]
    · simp only [hj, if_false, e, State.mem_members, h, true_and]; split <;> rfl
  · rename_i h
    have h' : s.groupRail l = false := by simpa using h
    by_cases hj : j = l
    · subst hj; simp [h', Sequencer.discharges]
    · simp [h', hj]

theorem eachSlot_mem (L : List Slot) (f : Slot → State → State) (s : State) (h : ∀ m t, (f m t).mem = t.mem) :
    (eachSlot L f s).mem = s.mem := eachSlot_keeps (fun t => t.mem) f h L s

@[simp] theorem driveReset_mem (l : Slot) (a : Bool) (s : State) : (driveReset l a s).mem = s.mem :=
  eachSlot_mem _ _ s fun _ _ => rfl
@[simp] theorem driveLink_mem (l : Slot) (a : Bool) (s : State) : (driveLink l a s).mem = s.mem :=
  eachSlot_mem _ _ s fun _ _ => rfl
@[simp] theorem switchOff_mem (l : Slot) (s : State) : (switchOff l s).mem = s.mem := by
  unfold switchOff; split
  · exact eachSlot_mem _ _ s fun _ _ => rfl
  · rfl
@[simp] theorem startLimit_mem (l : Slot) (d : Settings → DurCode) (s : State) : (startLimit l d s).mem = s.mem := rfl

@[simp] theorem driveReset_leaderOf (l : Slot) (a : Bool) (s : State) (i : Slot) :
    (driveReset l a s).leaderOf i = s.leaderOf i := State.leaderOf_congr (fun j => by simp) i
@[simp] theorem driveLink_leaderOf (l : Slot) (a : Bool) (s : State) (i : Slot) :
    (driveLink l a s).leaderOf i = s.leaderOf i := State.leaderOf_congr (fun j => by simp) i
@[simp] theorem switchOff_leaderOf (l : Slot) (s : State) (i : Slot) :
    (switchOff l s).leaderOf i = s.leaderOf i := State.leaderOf_congr (fun j => by simp) i
@[simp] theorem startLimit_leaderOf (l : Slot) (d : Settings → DurCode) (s : State) (i : Slot) :
    (startLimit l d s).leaderOf i = s.leaderOf i := State.leaderOf_congr (fun j => by simp) i

theorem startLimit_slot (l : Slot) (d : Settings → DurCode) (s : State) (j : Slot) :
    (startLimit l d s).slot j =
      if j = l then { s.slot l with seq := { (s.slot l).seq with
        limit := some ⟨s.timebase, (d (s.slot l).settings).micros⟩ } } else s.slot j := by
  simp only [startLimit, State.modSeq_slot]; rfl

end Sys2Proof.Machine
end

