-- ==== Sys2Proof/Laws/Notices.lean ====
section
/-! SUPPORT. What a notice does to the registers and to the ring (R163, R166), and what the end of an order or of
a sequence writes. -/

namespace Sys2Proof.Machine

/-- The registers after a notice. -/
theorem postNotice_regs (k : NoticeKind) (slot code result : Nat) (d : Word) (s : State) :
    (postNotice k slot code result d s).regs = regsAfterNotice k s.regs := by
  unfold postNotice regsAfterNotice
  dsimp only
  by_cases h : noticesWaiting s < 128
  · have h' : (s.regs.produce - s.regs.consume).toNat < 128 := h
    rw [if_pos h, decide_eq_true h']
    by_cases m : s.regs.noticeMask.getLsbD (k.code - 1) = true
    · by_cases c : s.regs.cause = 0 <;> by_cases i : s.regs.intEnable = true <;>
        simp [m, c, i, raiseCause, causeNotice]
    · simp [m]
  · have h' : ¬ (s.regs.produce - s.regs.consume).toNat < 128 := h
    rw [if_neg h, decide_eq_false h']
    by_cases c : s.regs.cause = 0 <;> by_cases i : s.regs.intEnable = true <;>
      simp [c, i, raiseCause, causeOverflow]

/-- Words written by the part read back: the first of a list. -/
theorem readWord_putWords_cons (a : Nat) (w : Word) (l : List Word) (s : State) (h : Memory.wf s.mem = true)
    (hr : s.regs.ready = true) (hb : a + 4 + 4 * l.length ≤ 65536) :
    (putWords a (w :: l) s).readWord a = w := by
  have k := putWords_wrote (a + 4) l (putWord a w s) hb
  rw [putWords, k.readWord a (by omega) (by simp), readWord_putWord s a w h hr]

/-- Words written by the part read back: those behind the first. -/
theorem readWord_putWords_tail (a b : Nat) (w : Word) (l : List Word) (s : State) (v : Word)
    (h : (putWords (a + 4) l (putWord a w s)).readWord b = v) : (putWords a (w :: l) s).readWord b = v := h

/-- With room, a notice reads back from its ring position. -/
theorem postNotice_reads (k : NoticeKind) (slot code result : Nat) (d : Word) (s : State)
    (hw : Memory.wf s.mem = true) (hr : s.regs.ready = true) :
    noticeReads s (postNotice k slot code result d s) (packBytes k.code slot code (code / 256))
      (BitVec.ofNat 32 result) d := by
  intro room
  have hb := noticeArea_bound s
  simp only [noticeArea] at hb
  generalize ha : noticeAddress s.regs.produce = a at hb
  have key : ∀ b, (postNotice k slot code result d s).readWord b = (putWords a
      [packBytes k.code slot code (code / 256), BitVec.ofNat 32 result, s.timebase, d] s).readWord b := by
    intro b
    unfold postNotice
    rw [if_pos room]
    dsimp only
    rw [ha]
    split <;> exact readWord_of_mem _ _ rfl b
  have w1 := putWord_wf s a (packBytes k.code slot code (code / 256)) hw
  have w2 := putWord_wf _ (a + 4) (BitVec.ofNat 32 result) w1
  have w3 := putWord_wf _ (a + 4 + 4) s.timebase w2
  refine ⟨?_, ?_, ?_, ?_⟩
  · rw [key]; exact readWord_putWords_cons a _ _ s hw hr (by simp; omega)
  · rw [key]; exact readWord_putWords_cons (a + 4) _ _ _ w1 (by simp [hr]) (by simp; omega)
  · rw [key]; exact readWord_putWords_cons (a + 4 + 4) _ _ _ w2 (by simp [hr]) (by simp; omega)
  · rw [key]; exact readWord_putWords_cons (a + 4 + 4 + 4) _ _ _ w3 (by simp [hr]) (by simp; omega)

end Sys2Proof.Machine
end

