-- ==== Sys2Proof/Laws/Health.lean ====
section
/-! SUPPORT. What a health event does once for all (R53 to R58): the meter, the notice and the fields of a counted
event that hands no score trigger on. -/

namespace Sys2Proof.Machine

theorem setScore_slot (i : Slot) (v : Nat) (s : State) (j : Slot) :
    (setScore i v s).slot j =
      if j = i then { s.slot i with meter := { (s.slot i).meter with score := v } } else s.slot j := by
  unfold setScore
  split
  · rename_i h
    by_cases e : j = i
    · subst e; simp [← h]
    · simp [e]
  · simp

theorem setScore_wrote (i : Slot) (v : Nat) (s : State) : Wrote [(slotBase i + 0x58, 2)] s (setScore i v s) := by
  have hb := slotBase_bound i
  unfold setScore
  split
  · exact Wrote.refl _ s
  · have w := putHalf_wrote (slotBase i + 0x58) (BitVec.ofNat 16 v) (s.modMeter i fun m => { m with score := v })
      (by omega)
    exact ⟨w.same, w.wf, w.ready⟩

/-- A count that does not move at an event of its kind leaves all the counts as they were. -/
theorem EventCounts.add_eq (n : EventCounts) (k : EventKind) (h : (n.add k).get k = n.get k) : n.add k = n := by
  cases k <;> simp_all [EventCounts.add, EventCounts.get]

theorem EventKind.offset_bound (k : EventKind) : 0x64 ≤ k.offset ∧ k.offset + 2 ≤ 0x70 := by cases k <;> decide

/-- The state with a kind's count raised and written (R58). -/
def raiseCount (i : Slot) (k : EventKind) (s : State) : State :=
  let m := (s.slot i).meter
  if (m.counts.add k).get k = m.counts.get k then s
  else (s.modMeter i fun x => { x with counts := m.counts.add k })
    |> putHalf (slotBase i + k.offset) (BitVec.ofNat 16 ((m.counts.add k).get k))

theorem raiseCount_slot (i : Slot) (k : EventKind) (s : State) (j : Slot) :
    (raiseCount i k s).slot j =
      if j = i then { s.slot i with meter := { (s.slot i).meter with counts := (s.slot i).meter.counts.add k } }
      else s.slot j := by
  unfold raiseCount
  dsimp only
  split
  · rename_i h
    by_cases e : j = i
    · subst e; simp [EventCounts.add_eq _ _ h]
    · simp [e]
  · simp

theorem raiseCount_wrote (i : Slot) (k : EventKind) (s : State) :
    Wrote [(slotBase i + k.offset, 2)] s (raiseCount i k s) := by
  have hb := slotBase_bound i
  have hk := k.offset_bound
  unfold raiseCount
  dsimp only
  split
  · exact Wrote.refl _ s
  · have w := putHalf_wrote (slotBase i + k.offset) (BitVec.ofNat 16 (((s.slot i).meter.counts.add k).get k))
      (s.modMeter i fun x => { x with counts := (s.slot i).meter.counts.add k }) (by omega)
    exact ⟨w.same, w.wf, w.ready⟩

/-- The state of a counted event before its threshold tests (R54, R58). -/
def scored (i : Slot) (k : EventKind) (s : State) : State :=
  setScore i (raised (s.slot i).meter.score ((s.slot i).settings.weight k)) (raiseCount i k s)

theorem countEvent_eq (i : Slot) (k : EventKind) (s : State) :
    countEvent i k s = testThresholds i k (s.slot i).meter.score (scored i k s) := rfl

theorem scored_slot (i : Slot) (k : EventKind) (s : State) (j : Slot) :
    (scored i k s).slot j =
      if j = i then { s.slot i with meter := { (s.slot i).meter with
        score := raised (s.slot i).meter.score ((s.slot i).settings.weight k)
        counts := (s.slot i).meter.counts.add k } } else s.slot j := by
  unfold scored
  rw [setScore_slot, raiseCount_slot, raiseCount_slot]
  by_cases e : j = i <;> simp [e]

theorem scored_same (i : Slot) (k : EventKind) (s : State) :
    (scored i k s).regs = s.regs ∧ (scored i k s).prt = s.prt ∧ (scored i k s).arb = s.arb ∧
    (scored i k s).engine = s.engine ∧ (scored i k s).timebase = s.timebase ∧ (scored i k s).pending = s.pending ∧
    (scored i k s).draws = s.draws := by
  unfold scored raiseCount
  dsimp only
  split <;> simp

theorem scored_wrote (i : Slot) (k : EventKind) (s : State) :
    Wrote [(slotBase i + 0x58, 2), (slotBase i + k.offset, 2)] s (scored i k s) :=
  (raiseCount_wrote i k s).trans (setScore_wrote i _ _) (by simp) (by simp)

/-- A counted event that hands no score trigger on: with a rise through WARN one HEALTH_WARN follows the new score
and count, and WARN is disarmed (R55, R56). -/
theorem countEvent_quiet (i : Slot) (k : EventKind) (s : State) (h : s.noTrigger i k) :
    countEvent i k s =
      (let u := (scored i k s).modMeter i fun x => { x with warnArmed := x.warnArmed && !s.warns i k }
       if s.warns i k then
         postNotice .healthWarn i.val codeScoreWarn 0
           (packHalves (raised (s.slot i).meter.score ((s.slot i).settings.weight k)) k.code) u
       else u) := by
  rw [countEvent_eq]
  unfold testThresholds
  have sl := scored_slot i k s i
  simp only [if_true] at sl
  have hi : risesThrough (s.slot i).settings.isolate (s.slot i).meter.isolateArmed (s.slot i).meter.score
      (raised (s.slot i).meter.score ((s.slot i).settings.weight k)) = false := by
    unfold State.noTrigger at h
    unfold risesThrough raised
    dsimp only at h
    by_cases c0 : (s.slot i).settings.isolate = 0
    · simp [c0]
    · by_cases c1 : (s.slot i).meter.isolateArmed = false
      · simp [c1]
      · by_cases c2 : (s.slot i).meter.score < (s.slot i).settings.isolate
        · have : ¬ (s.slot i).settings.isolate ≤ min ((s.slot i).meter.score + (s.slot i).settings.weight k) 4095 := by
            rcases h with h | h | h | h
            · exact absurd h c0
            · exact absurd h c1
            · omega
            · omega
          rw [decide_eq_false this]; simp
        · rw [decide_eq_false c2]; simp
  have hw : risesThrough (s.slot i).settings.warn (s.slot i).meter.warnArmed (s.slot i).meter.score
      (raised (s.slot i).meter.score ((s.slot i).settings.weight k)) = s.warns i k := by
    unfold risesThrough State.warns raised
    dsimp only
    cases (s.slot i).meter.warnArmed <;> simp
  dsimp only
  rw [sl]
  dsimp only
  rw [hi, hw]
  have hm : ∀ x : Meter, ({ x with warnArmed := x.warnArmed && !s.warns i k, isolateArmed := x.isolateArmed && !false } : Meter)
      = { x with warnArmed := x.warnArmed && !s.warns i k } := by intro x; simp
  simp only [hm]
  by_cases w : s.warns i k <;> simp [w]

/-- A counted event: every slot's record, the registers, and where it writes, when no trigger is handed on. -/
theorem countEvent_facts (i : Slot) (k : EventKind) (s : State) (h : s.noTrigger i k) :
    (∀ j, (countEvent i k s).slot j = if j = i then { s.slot i with meter := { (s.slot i).meter with
        score := raised (s.slot i).meter.score ((s.slot i).settings.weight k)
        counts := (s.slot i).meter.counts.add k
        warnArmed := (s.slot i).meter.warnArmed && !s.warns i k } } else s.slot j) ∧
    (countEvent i k s).regs = (if s.warns i k then regsAfterNotice .healthWarn s.regs else s.regs) ∧
    (countEvent i k s).prt = s.prt ∧ (countEvent i k s).arb = s.arb ∧ (countEvent i k s).engine = s.engine ∧
    (countEvent i k s).timebase = s.timebase ∧ (countEvent i k s).pending = s.pending ∧
    (countEvent i k s).draws = s.draws ∧
    Wrote [(slotBase i + 0x58, 2), (slotBase i + k.offset, 2), noticeArea s] s (countEvent i k s) := by
  rw [countEvent_quiet i k s h]
  obtain ⟨r1, r2, r3, r4, r5, r6, r7⟩ := scored_same i k s
  have W := scored_wrote i k s
  have hs : ∀ j, ((scored i k s).modMeter i fun x => { x with warnArmed := x.warnArmed && !s.warns i k }).slot j =
      if j = i then { s.slot i with meter := { (s.slot i).meter with
        score := raised (s.slot i).meter.score ((s.slot i).settings.weight k)
        counts := (s.slot i).meter.counts.add k
        warnArmed := (s.slot i).meter.warnArmed && !s.warns i k } } else s.slot j := by
    intro j
    rw [State.modMeter_slot, scored_slot, scored_slot]
    by_cases e : j = i <;> simp [e]
  dsimp only
  generalize hu : ((scored i k s).modMeter i fun x => { x with warnArmed := x.warnArmed && !s.warns i k }) = u at *
  have ur : u.regs = s.regs := by rw [← hu]; simpa using r1
  have up : u.prt = s.prt := by rw [← hu]; simpa using r2
  have ua : u.arb = s.arb := by rw [← hu]; simpa using r3
  have ue : u.engine = s.engine := by rw [← hu]; simpa using r4
  have ut : u.timebase = s.timebase := by rw [← hu]; simpa using r5
  have uq : u.pending = s.pending := by rw [← hu]; simpa using r6
  have ud : u.draws = s.draws := by rw [← hu]; simpa using r7
  have uw : Wrote [(slotBase i + 0x58, 2), (slotBase i + k.offset, 2)] s u := by
    rw [← hu]; exact ⟨W.same, W.wf, W.ready⟩
  by_cases w : s.warns i k
  · simp only [w, if_true]
    have P := postNotice_wrote .healthWarn i.val codeScoreWarn 0
      (packHalves (raised (s.slot i).meter.score ((s.slot i).settings.weight k)) k.code) u
    rw [show noticeArea u = noticeArea s by unfold noticeArea; rw [ur]] at P
    refine ⟨?_, ?_, by simpa using up, by simpa using ua, by simpa using ue, by simpa using ut, by simpa using uq,
      by simpa using ud, uw.trans P (by simp) (by simp)⟩
    · intro j; rw [postNotice_slot, hs]; simp [w]
    · rw [postNotice_regs, ur]
  · have w' : s.warns i k = false := by simpa using w
    simp only [w', Bool.false_eq_true, if_false]
    refine ⟨?_, ur, up, ua, ue, ut, uq, ud, uw.mono (by simp)⟩
    intro j; rw [hs]; simp [w']

end Sys2Proof.Machine
end

