-- ==== Sys2Proof/Laws/Ladder.lean ====
section
/-! SUPPORT. What the sequencer's larger operations do, once for each: the retired tags of a group, the begin of an
attempt (R85 to R87), and the end of a sequence (R79). -/

namespace Sys2Proof.Machine

/-! ### What GroupEntered and GroupShown read of their first state -/

/-- A state in which the slots differ from `s` at most in the leader's sequencer record. -/
structure SameButSeq (l : Slot) (s u : State) : Prop where
  slots : ∀ j, u.slot j = { s.slot j with seq := if j = l then (u.slot l).seq else (s.slot j).seq }
  timebase : u.timebase = s.timebase

theorem SameButSeq.settings {l : Slot} {s u : State} (h : SameButSeq l s u) (j : Slot) :
    (u.slot j).settings = (s.slot j).settings := by rw [h.slots j]

theorem SameButSeq.leaderOf {l : Slot} {s u : State} (h : SameButSeq l s u) (j : Slot) : u.leaderOf j = s.leaderOf j :=
  State.leaderOf_congr h.settings j

theorem SameButSeq.members {l : Slot} {s u : State} (h : SameButSeq l s u) (j : Slot) : u.members j = s.members j :=
  State.members_congr h.settings j

theorem SameButSeq.modSeq (l : Slot) (s : State) (f : Sequencer → Sequencer) : SameButSeq l s (s.modSeq l f) := by
  refine ⟨fun j => ?_, rfl⟩
  by_cases h : j = l
  · subst h; simp
  · simp [h]

/-- A further change of the leader's record. -/
theorem SameButSeq.seq {l : Slot} {s u : State} (k : SameButSeq l s u) (f : Sequencer → Sequencer) :
    SameButSeq l s (u.modSeq l f) := by
  refine ⟨fun j => ?_, k.timebase⟩
  by_cases e : j = l
  · subst e
    have h := congrArg (fun r : SlotRec => ({ r with seq := f (u.slot j).seq } : SlotRec)) (k.slots j)
    simp only at h
    simp only [State.modSeq_slot, if_true]
    exact h
  · rw [State.modSeq_slot, if_neg e, k.slots j]; simp [e]

theorem SameButSeq.refl (l : Slot) (s : State) : SameButSeq l s s := by
  refine ⟨fun j => ?_, rfl⟩
  by_cases h : j = l
  · subst h; simp
  · simp [h]

theorem SameButSeq.of_slots {l : Slot} {s u v : State} (h : SameButSeq l s u) (e : v.slots = u.slots)
    (t : v.timebase = u.timebase) : SameButSeq l s v := by
  refine ⟨fun j => ?_, by rw [t, h.timebase]⟩
  rw [State.slot_congr e, State.slot_congr e]; exact h.slots j

/-- An entry of a state reached by changes to the leader's record alone is an entry of the first state. -/
theorem GroupEntered.of_seq {l : Slot} {st : SeqState} {q : Sequencer} {g : Lines → Lines} {s u t : State}
    (k : SameButSeq l s u) (hl : s.leaderOf l = l) (h : GroupEntered l st q g u t) : GroupEntered l st q g s t := by
  constructor
  · intro m hm
    rw [h.1 m (by rw [k.leaderOf]; exact hm), k.slots m, k.timebase]
    by_cases e : m = l <;> simp [e, SlotRec.enters]
  · intro j hj
    have hjl : j ≠ l := fun e => hj (e ▸ hl)
    rw [h.2 j (by rw [k.leaderOf]; exact hj), k.slots j]; simp [hjl]

theorem GroupShown.of_wrote {l : Slot} {A : List (Nat × Nat)} {s u t : State} (w : Wrote A s u)
    (k : ∀ j, (u.slot j).settings = (s.slot j).settings) (h : GroupShown l u t) : GroupShown l s t := by
  intro hr hw m hm
  exact h (by rw [w.ready]; exact hr) (w.wf hw) m (by rw [State.leaderOf_congr k]; exact hm)

/-- What is shown stays shown while the member areas, the leader's shown fields and the link flags stay. -/
theorem GroupShown.later {l : Slot} {A : List (Nat × Nat)} {s t v : State} (h : GroupShown l s t) (w : Wrote A t v)
    (hd : ∀ m, s.leaderOf m = l → ∀ r ∈ A, slotBase m + 0x64 ≤ r.1 ∨ r.1 + r.2 ≤ slotBase m + 0x54)
    (h1 : statusWord (v.slot l).seq = statusWord (t.slot l).seq)
    (h2 : ∀ m, s.leaderOf m = l → flagsHalf (v.slot l).seq (v.slot m).lines = flagsHalf (t.slot l).seq (t.slot m).lines)
    (h3 : (v.slot l).seq.cause = (t.slot l).seq.cause) (h4 : (v.slot l).seq.causeStamp = (t.slot l).seq.causeStamp) :
    GroupShown l s v := by
  intro hr hw m hm
  obtain ⟨a1, a2, a3, a4⟩ := h hr hw m hm
  have hb := slotBase_bound m
  have dis := hd m hm
  refine ⟨?_, ?_, ?_, ?_⟩
  · rw [w.readWord _ (by omega) (fun r hr => by have := dis r hr; omega), a1, h1]
  · rw [w.readHalf _ (by omega) (fun r hr => by have := dis r hr; omega), a2, h2 m hm]
  · rw [w.readWord _ (by omega) (fun r hr => by have := dis r hr; omega), a3, h3]
  · rw [w.readWord _ (by omega) (fun r hr => by have := dis r hr; omega), a4, h4]

/-! ### Retired tags of a group (R41, R108) -/

theorem purgeGroup_prt (l : Slot) (s : State) :
    (purgeGroup l s).prt = { s.prt with retired := s.prt.retired.filter fun k => decide (s.leaderOf k.slot ≠ l) } := by
  have key : ∀ (L : List Slot) (u : State),
      (eachSlot L purgeRetired u).prt = { u.prt with retired := u.prt.retired.filter fun k => decide (k.slot ∉ L) } := by
    intro L
    induction L with
    | nil =>
      intro u
      have : (u.prt.retired.filter fun k => decide (k.slot ∉ ([] : List Slot))) = u.prt.retired :=
        List.filter_eq_self.2 (by simp)
      rw [eachSlot_nil, this]
    | cons a r ih =>
      intro u
      rw [eachSlot_cons, ih]
      simp only [purgeRetired, State.modPrt_prt, List.filter_filter]
      congr 1
      apply List.filter_congr
      intro k _
      by_cases h1 : k.slot = a <;> simp [h1]
  unfold purgeGroup
  rw [key]
  have : (s.prt.retired.filter fun k => decide (k.slot ∉ s.members l)) =
      s.prt.retired.filter fun k => decide (s.leaderOf k.slot ≠ l) :=
    List.filter_congr fun k _ => by simp
  rw [this]

theorem purgeGroup_slots (l : Slot) (s : State) : (purgeGroup l s).slots = s.slots := by
  unfold purgeGroup; exact eachSlot_slots _ _ s fun _ _ => rfl
theorem purgeGroup_mem (l : Slot) (s : State) : (purgeGroup l s).mem = s.mem := by
  unfold purgeGroup; exact eachSlot_mem _ _ s fun _ _ => rfl

@[simp] theorem purgeGroup_regs (l : Slot) (s : State) : (purgeGroup l s).regs = s.regs := by
  unfold purgeGroup; exact eachSlot_regs _ _ s fun _ _ => rfl
@[simp] theorem purgeGroup_arb (l : Slot) (s : State) : (purgeGroup l s).arb = s.arb := by
  unfold purgeGroup; exact eachSlot_arb _ _ s fun _ _ => rfl
@[simp] theorem purgeGroup_engine (l : Slot) (s : State) : (purgeGroup l s).engine = s.engine := by
  unfold purgeGroup; exact eachSlot_engine _ _ s fun _ _ => rfl
@[simp] theorem purgeGroup_timebase (l : Slot) (s : State) : (purgeGroup l s).timebase = s.timebase := by
  unfold purgeGroup; exact eachSlot_timebase _ _ s fun _ _ => rfl
@[simp] theorem purgeGroup_pending (l : Slot) (s : State) : (purgeGroup l s).pending = s.pending := by
  unfold purgeGroup; exact eachSlot_pending _ _ s fun _ _ => rfl
@[simp] theorem purgeGroup_draws (l : Slot) (s : State) : (purgeGroup l s).draws = s.draws := by
  unfold purgeGroup; exact eachSlot_draws _ _ s fun _ _ => rfl
@[simp] theorem purgeGroup_slot (l : Slot) (s : State) (j : Slot) : (purgeGroup l s).slot j = s.slot j :=
  State.slot_congr (purgeGroup_slots l s) j
@[simp] theorem purgeGroup_leaderOf (l : Slot) (s : State) (j : Slot) : (purgeGroup l s).leaderOf j = s.leaderOf j :=
  State.leaderOf_congr (fun j => by rw [purgeGroup_slot]) j

/-! ### Attempts (R85 to R87) -/


/-- An attempt begins at a level: the entry with its lines, the purge, the areas written, and what it leaves. -/
theorem beginAttempt_begun (l : Slot) (level : Nat) (why : Cause) (s : State) (hl : s.leaderOf l = l)
    (h : level ≤ 2 ∨ s.waitsDischarge l) :
    AttemptBegun l level why (s.slot l).seq s (beginAttempt l level why s) ∧
    GroupShown l s (beginAttempt l level why s) ∧ Wrote (memberAreas l s) s (beginAttempt l level why s) ∧
    (beginAttempt l level why s).regs = s.regs ∧ (beginAttempt l level why s).arb = s.arb ∧
    (beginAttempt l level why s).engine = s.engine ∧ sameClock s (beginAttempt l level why s) := by
  have k := SameButSeq.modSeq l s fun q => { q with level := level }
  have kseq : ((setLevel l level s).slot l).seq = { (s.slot l).seq with level := level } := by
    unfold setLevel; simp
  unfold beginAttempt
  dsimp only
  change SameButSeq l s (setLevel l level s) at k
  have um : (setLevel l level s).mem = s.mem := rfl
  have ur : (setLevel l level s).regs = s.regs := rfl
  have up : (setLevel l level s).prt = s.prt := rfl
  have ua : (setLevel l level s).arb = s.arb := rfl
  have ue : (setLevel l level s).engine = s.engine := rfl
  have uc : sameClock s (setLevel l level s) := ⟨rfl, rfl, rfl⟩
  have ug : (setLevel l level s).groupRail l = s.groupRail l := by
    unfold State.groupRail; rw [k.members]
    congr 1; funext m; rw [k.slots m]
  generalize setLevel l level s = u at *
  have hlu : u.leaderOf l = l := by rw [k.leaderOf]; exact hl
  have uma : memberAreas l u = memberAreas l s := by unfold memberAreas; rw [k.members]
  -- the two attempts through RESETTING
  have resetting : ∀ (a b : Bool),
      let t := startLimit l (fun c => c.resetHold)
        (driveLink l b (driveReset l a (purgeGroup l (enterState l .resetting why u))))
      GroupEntered l .resetting
        { (u.slot l).seq.enters .resetting why s.timebase with
          limit := some ⟨s.timebase, (s.slot l).settings.resetHold.micros⟩ }
        (fun n => { n with resetAsserted := a, linkDisabled := b }) s t ∧
      t.prt = { s.prt with retired := s.prt.retired.filter fun k => decide (s.leaderOf k.slot ≠ l) } ∧
      GroupShown l s t ∧ Wrote (memberAreas l s) s t ∧ t.regs = s.regs ∧ t.arb = s.arb ∧ t.engine = s.engine ∧
      sameClock s t := by
    intro a b
    dsimp only
    have ew := enterState_wrote l .resetting why u
    have es := enterState_shown l .resetting why u
    have ee := enterState_entered l .resetting why u hlu
    generalize hv : enterState l .resetting why u = v at *
    have vset : ∀ j, (v.slot j).settings = (u.slot j).settings := by intro j; rw [← hv]; simp
    have vlead : ∀ j, v.leaderOf j = u.leaderOf j := State.leaderOf_congr vset
    have vt : v.timebase = u.timebase := by rw [← hv]; simp
    have vr : v.regs = u.regs := by rw [← hv]; simp
    have slots : ∀ j, (startLimit l (fun c => c.resetHold)
        (driveLink l b (driveReset l a (purgeGroup l v)))).slot j =
        if s.leaderOf j = l then { v.slot j with
          lines := { (v.slot j).lines with resetAsserted := a, linkDisabled := b }
          seq := if j = l then { (v.slot l).seq with limit := some ⟨s.timebase, (s.slot l).settings.resetHold.micros⟩ }
            else (v.slot j).seq }
        else v.slot j := by
      intro j
      rw [startLimit_slot]
      simp only [driveLink_slot, driveReset_slot, purgeGroup_slot, driveReset_leaderOf, purgeGroup_leaderOf,
        driveLink_timebase, driveReset_timebase, purgeGroup_timebase, vlead, k.leaderOf, hl, vt, k.timebase, if_true]
      by_cases e : j = l
      · subst e; simp [hl, vset, k.settings]
      · by_cases e2 : s.leaderOf j = l <;> simp [e, e2]
    have wv : Wrote (memberAreas l s) s v := by
      rw [uma] at ew
      exact (Wrote.of_mem [] um (by rw [ur])).trans ew (List.nil_subset _) (fun _ h => h)
    have wt : Wrote [] v (startLimit l (fun c => c.resetHold) (driveLink l b (driveReset l a (purgeGroup l v)))) :=
      Wrote.of_mem [] (by simp [purgeGroup_mem]) (by simp [startLimit])
    refine ⟨GroupEntered.of_seq k hl ⟨?_, ?_⟩, ?_, ?_, wv.trans wt (fun _ h => h) (List.nil_subset _), ?_, ?_, ?_, ?_⟩
    · intro m hm
      have hm' : s.leaderOf m = l := by rw [← k.leaderOf]; exact hm
      rw [slots, if_pos hm', ee.1 m hm, k.timebase]
      by_cases e : m = l
      · subst e; simp [ee.1 m hm, k.timebase]
      · simp [e]
    · intro j hj
      have hj' : ¬ s.leaderOf j = l := by rw [← k.leaderOf]; exact hj
      rw [slots, if_neg hj', ee.2 j hj]
    · have e1 : v.prt = s.prt := by rw [← hv]; simp [up]
      have e2 : ∀ j, v.leaderOf j = s.leaderOf j := fun j => by rw [vlead, k.leaderOf]
      simp only [startLimit_prt, driveLink_prt, driveReset_prt, purgeGroup_prt, e1, e2]
    · refine GroupShown.later (GroupShown.of_wrote (Wrote.of_mem [] um (by rw [ur])) k.settings es) wt (by simp) ?_ ?_ ?_ ?_
      · rw [slots]; simp [hl, statusWord]
      · intro m hm; rw [slots m, slots l]; simp [hl, hm, flagsHalf]
      · rw [slots]; simp [hl]
      · rw [slots]; simp [hl]
    · simp [startLimit, vr, ur]
    · simp; rw [← hv]; simp [ua]
    · simp; rw [← hv]; simp [ue]
    · rw [← hv]; simpa [sameClock] using uc
  by_cases c1 : level ≤ 1
  · rw [if_pos c1]
    obtain ⟨r1, r2, r3⟩ := resetting false true
    have e : (fun n : Lines => { n with resetAsserted := false, linkDisabled := true }) =
        Lines.atAttempt level (s.groupRail l) := by funext n; simp [Lines.atAttempt, c1]
    rw [e] at r1
    refine ⟨⟨?_, r2⟩, r3⟩
    rw [if_pos (show level ≤ 2 by omega)]
    unfold Sequencer.atAttempt
    rw [if_pos (show level ≤ 2 by omega), ← kseq]
    exact r1
  · rw [if_neg c1]
    by_cases c2 : level = 2
    · rw [if_pos c2]
      obtain ⟨r1, r2, r3⟩ := resetting true false
      have e : (fun n : Lines => { n with resetAsserted := true, linkDisabled := false }) =
          Lines.atAttempt level (s.groupRail l) := by funext n; simp [Lines.atAttempt, c2]
      rw [e] at r1
      refine ⟨⟨?_, r2⟩, r3⟩
      rw [if_pos (show level ≤ 2 by omega)]
      unfold Sequencer.atAttempt
      rw [if_pos (show level ≤ 2 by omega), ← kseq]
      exact r1
    · rw [if_neg c2]
      have h3 : ¬ level ≤ 2 := by omega
      have wait : s.waitsDischarge l := by rcases h with h | h; exact absurd h h3; exact h
      unfold beginPower
      have d1 : ∀ j, (driveReset l true u).slot j =
          if s.leaderOf j = l then { u.slot j with lines := { (u.slot j).lines with resetAsserted := true } }
          else u.slot j := by intro j; rw [driveReset_slot, k.leaderOf]
      have gr : (driveReset l true u).groupRail l = s.groupRail l := by
        rw [← ug]; unfold State.groupRail
        rw [State.members_congr (s := u) (fun j => by simp)]
        congr 1; funext m; rw [driveReset_slot]; split <;> rfl
      have d2 := fun j => switchOff_slot l (driveReset l true u) j (by rw [driveReset_leaderOf]; exact hlu)
      rw [gr] at d2
      simp only [driveReset_leaderOf, driveReset_timebase, k.leaderOf, k.timebase, d1] at d2
      have sm : (switchOff l (driveReset l true u)).mem = s.mem := by simp [um]
      have sr : (switchOff l (driveReset l true u)).regs = s.regs := by simp [ur]
      have sp : (switchOff l (driveReset l true u)).prt = s.prt := by simp [up]
      have sa : (switchOff l (driveReset l true u)).arb = s.arb := by simp [ua]
      have se : (switchOff l (driveReset l true u)).engine = s.engine := by simp [ue]
      have sc : sameClock s (switchOff l (driveReset l true u)) := by simpa [sameClock] using uc
      have sset : ∀ j, ((switchOff l (driveReset l true u)).slot j).settings = (s.slot j).settings := by
        intro j; simp [k.settings]
      generalize hv : switchOff l (driveReset l true u) = v at *
      have vlead : ∀ j, v.leaderOf j = s.leaderOf j := State.leaderOf_congr sset
      have hlv : v.leaderOf l = l := by rw [vlead]; exact hl
      have ew := enterState_wrote l .unpowered why v
      have es := enterState_shown l .unpowered why v
      have ee := enterState_entered l .unpowered why v hlv
      have xset : ∀ j, ((enterState l .unpowered why v).slot j).settings = (v.slot j).settings := by intro j; simp
      have xr : (enterState l .unpowered why v).regs = v.regs := by simp
      have xp : (enterState l .unpowered why v).prt = v.prt := by simp
      have xa : (enterState l .unpowered why v).arb = v.arb := by simp
      have xe : (enterState l .unpowered why v).engine = v.engine := by simp
      have xc : sameClock v (enterState l .unpowered why v) := by simp [sameClock]
      generalize hx : enterState l .unpowered why v = x at *
      have vseq : (v.slot l).seq = { (s.slot l).seq with level := level }.discharges (s.groupRail l)
          (s.slot l).settings.dischargeDwell s.timebase := by
        rw [d2]; simp [hl, k.settings, kseq]
      have xl := ee.1 l hlv
      have nodis : ((purgeGroup l x).slot l).seq.discharge ≠ none := by
        rw [purgeGroup_slot, xl]
        simp only [if_true, Sequencer.enters, vseq, Sequencer.discharges]
        rcases wait with w | w
        · simp [w]
        · split
          · simp
          · exact w
      unfold awaitWhenDischarged
      rw [if_neg nodis]
      refine ⟨⟨?_, ?_⟩, ?_, ?_, ?_, ?_, ?_, ?_⟩
      · rw [if_neg h3]
        constructor
        · intro m hm
          have hmv : v.leaderOf m = l := by rw [vlead]; exact hm
          rw [purgeGroup_slot, ee.1 m hmv, vseq]
          unfold Sequencer.atAttempt
          rw [if_neg h3, d2, sc.2.1]
          have e1 : ∀ n : Lines, Lines.atAttempt level (s.groupRail l) n =
              if s.groupRail l then { n.cut with resetAsserted := true } else { n with resetAsserted := true } := by
            intro n; unfold Lines.atAttempt; rw [if_neg c1, if_neg c2]
          rw [e1]
          cases hg : s.groupRail l
          · by_cases e : m = l
            · subst e; rw [k.slots m]; simp [hl, SlotRec.enters]
            · rw [k.slots m]; simp [hm, e, SlotRec.enters]
          · by_cases e : m = l
            · subst e; rw [k.slots m]; simp [hl, SlotRec.enters, Lines.cut]
            · rw [k.slots m]; simp [hm, e, SlotRec.enters, Lines.cut]
        · intro j hj
          have hjv : v.leaderOf j ≠ l := by rw [vlead]; exact hj
          have hjl : j ≠ l := fun e => hj (e ▸ hl)
          rw [purgeGroup_slot, ee.2 j hjv, d2, k.slots j]
          simp [hj, hjl]
      · rw [purgeGroup_prt, xp, sp]
        have : ∀ j, x.leaderOf j = s.leaderOf j := fun j => by rw [State.leaderOf_congr xset, vlead]
        simp only [this]
      · refine GroupShown.later (v := purgeGroup l x) (t := x)
          (GroupShown.of_wrote (Wrote.of_mem [] sm (by rw [sr])) sset es)
          (Wrote.of_mem [] (purgeGroup_mem l x) (by simp)) (by simp) ?_ ?_ ?_ ?_
        · rw [purgeGroup_slot]
        · intro m _; rw [purgeGroup_slot, purgeGroup_slot]
        · rw [purgeGroup_slot]
        · rw [purgeGroup_slot]
      · have e : memberAreas l v = memberAreas l s := by unfold memberAreas; rw [State.members_congr sset]
        rw [e] at ew
        exact ((Wrote.of_mem [] sm (by rw [sr])).trans ew (List.nil_subset _) (fun _ h => h)).trans
          (Wrote.of_mem [] (purgeGroup_mem l x) (by simp)) (fun _ h => h) (List.nil_subset _)
      · rw [purgeGroup_regs, xr, sr]
      · rw [purgeGroup_arb, xa, sa]
      · rw [purgeGroup_engine, xe, se]
      · exact ⟨by rw [purgeGroup_pending, xc.1, sc.1], by rw [purgeGroup_timebase, xc.2.1, sc.2.1],
          by rw [purgeGroup_draws, xc.2.2, sc.2.2]⟩

end Sys2Proof.Machine
end

