-- ==== Sys2Proof/Laws/Sequence.lean ====
section
/-! SUPPORT. The end of a sequence with no CANCEL that waits (R79, Table 4-4), and the entries that end one:
FAILED (R94) and the power-off steps (R78). -/

namespace Sys2Proof.Machine

theorem AttemptBegun.of_seq {l : Slot} {n : Nat} {why : Cause} {q : Sequencer} {s u t : State}
    (k : SameButSeq l s u) (hp : u.prt = s.prt) (hl : s.leaderOf l = l) (h : AttemptBegun l n why q u t) :
    AttemptBegun l n why q s t := by
  have hr : u.groupRail l = s.groupRail l := by
    unfold State.groupRail; rw [k.members]; congr 1; funext m; rw [k.slots m]
  obtain ⟨a, b⟩ := h
  rw [hr, k.settings, k.timebase] at a
  refine ⟨GroupEntered.of_seq k hl a, ?_⟩
  rw [b, hp]
  simp only [k.leaderOf]

theorem SameButSeq.groupLock {l : Slot} {s u : State} (k : SameButSeq l s u) (m : Slot) : u.groupLock m = s.groupLock m := by
  unfold State.groupLock; rw [k.members]; congr 1; funext x; rw [k.settings]

theorem SameButSeq.groupRail {l : Slot} {s u : State} (k : SameButSeq l s u) (m : Slot) : u.groupRail m = s.groupRail m := by
  unfold State.groupRail; rw [k.members]; congr 1; funext x; rw [k.slots x]

/-- An attempt that begins from a changed record of the leader (R83, R84). -/
theorem beginAttempt_from (l : Slot) (level : Nat) (why : Cause) (s u : State) (hl : s.leaderOf l = l)
    (k : SameButSeq l s u) (hp : u.prt = s.prt) (hm : u.mem = s.mem) (hr : u.regs = s.regs) (ha : u.arb = s.arb)
    (he : u.engine = s.engine) (hc : sameClock s u)
    (h : level ≤ 2 ∨ s.groupRail l = true ∨ (u.slot l).seq.discharge ≠ none) :
    AttemptBegun l level why (u.slot l).seq s (beginAttempt l level why u) ∧
    GroupShown l s (beginAttempt l level why u) ∧ Wrote (memberAreas l s) s (beginAttempt l level why u) ∧
    (beginAttempt l level why u).regs = s.regs ∧ (beginAttempt l level why u).arb = s.arb ∧
    (beginAttempt l level why u).engine = s.engine ∧ sameClock s (beginAttempt l level why u) := by
  have hw : level ≤ 2 ∨ u.waitsDischarge l := by
    rcases h with h | h
    · exact .inl h
    · right; unfold State.waitsDischarge; rw [k.groupRail]; exact h
  obtain ⟨a, b, c, d, e, f, g⟩ := beginAttempt_begun l level why u (by rw [k.leaderOf]; exact hl) hw
  have em : memberAreas l u = memberAreas l s := by unfold memberAreas; rw [k.members]
  have w : Wrote [] s u := Wrote.of_mem [] hm (by rw [hr])
  rw [em] at c
  exact ⟨a.of_seq k hp hl, b.of_wrote w k.settings, w.trans c (List.nil_subset _) (fun _ h => h), by rw [d, hr],
    by rw [e, ha], by rw [f, he], ⟨by rw [g.1, hc.1], by rw [g.2.1, hc.2.1], by rw [g.2.2, hc.2.2]⟩⟩

/-- A ladder begins (R83). -/
theorem beginLadder_begun (l : Slot) (start max : Nat) (why : Cause) (exempt : Bool) (s u : State)
    (hl : s.leaderOf l = l) (k : SameButSeq l s u) (hp : u.prt = s.prt) (hm : u.mem = s.mem) (hr : u.regs = s.regs)
    (ha : u.arb = s.arb) (he : u.engine = s.engine) (hc : sameClock s u)
    (h : clampLevel (s.groupLock l && !exempt) start ≤ 2 ∨ s.groupRail l = true ∨ (u.slot l).seq.discharge ≠ none) :
    AttemptBegun l (clampLevel (s.groupLock l && !exempt) start) why
      { (u.slot l).seq with
        startLevel := clampLevel (s.groupLock l && !exempt) start
        maxLevel := clampLevel (s.groupLock l && !exempt) max, attempts := 0 } s
      (beginLadder l start max why exempt u) ∧
    GroupShown l s (beginLadder l start max why exempt u) ∧
    Wrote (memberAreas l s) s (beginLadder l start max why exempt u) ∧
    (beginLadder l start max why exempt u).regs = s.regs ∧ (beginLadder l start max why exempt u).arb = s.arb ∧
    (beginLadder l start max why exempt u).engine = s.engine ∧
    sameClock s (beginLadder l start max why exempt u) := by
  unfold beginLadder
  dsimp only
  rw [k.groupLock]
  have k2 := k.seq fun q => { q with
    startLevel := clampLevel (s.groupLock l && !exempt) start
    maxLevel := clampLevel (s.groupLock l && !exempt) max, attempts := 0 }
  have f := beginAttempt_from l (clampLevel (s.groupLock l && !exempt) start) why s _ hl k2 hp hm hr ha he hc
    (by rw [State.modSeq_slot, if_pos rfl]; exact h)
  rw [State.modSeq_slot, if_pos rfl] at f
  exact f

/-! ### The end of a sequence -/

theorem order_isOrder (f : Flight) : f.isOrder = f.order.isSome := by cases f <;> rfl

/-- The report of a sequence's end (Table 4-4). -/
theorem reportEnd_facts (l : Slot) (r : Result) (s : State) (hr : r ≠ .railFault) (hn : r ≠ .noCard) :
    (match (s.slot l).seq.flight.order with
      | some o =>
        (reportEnd l r s).regs = regsAfterNotice .orderDone s.regs ∧
        (s.regs.ready = true → Memory.wf s.mem = true →
          (reportEnd l r s).readWord (slotBase l + 0x50) = packHalves r.code o.code ∧
          noticeReads s (reportEnd l r s) (packBytes 1 l.val o.code 0) (BitVec.ofNat 32 r.code)
            (levelDetail (s.slot l).seq))
      | none =>
        if (s.slot l).seq.flight = .autoRecover then
          (reportEnd l r s).regs = regsAfterNotice .autoRecoveryEnded s.regs ∧
          (s.regs.ready = true → Memory.wf s.mem = true →
            noticeReads s (reportEnd l r s) (packBytes 3 l.val (s.slot l).seq.cause.code 0) (BitVec.ofNat 32 r.code)
              (levelDetail (s.slot l).seq))
        else (reportEnd l r s).regs = s.regs) ∧
    Wrote [(slotBase l + 0x50, 4), noticeArea s] s (reportEnd l r s) := by
  have fin : ∀ o : Order, o.code / 256 = 0 →
      ((finishOrder l o r s).regs = regsAfterNotice .orderDone s.regs ∧
        (s.regs.ready = true → Memory.wf s.mem = true →
          (finishOrder l o r s).readWord (slotBase l + 0x50) = packHalves r.code o.code ∧
          noticeReads s (finishOrder l o r s) (packBytes 1 l.val o.code 0) (BitVec.ofNat 32 r.code)
            (levelDetail (s.slot l).seq))) ∧
      Wrote [(slotBase l + 0x50, 4), noticeArea s] s (finishOrder l o r s) := by
    intro o ho
    unfold finishOrder
    have w1 := writeOutcome_wrote l r o s
    have tr : (writeOutcome l r o s).regs = s.regs := by simp
    have tb : (writeOutcome l r o s).timebase = s.timebase := by simp
    have rw0 : Memory.wf s.mem = true → s.regs.ready = true →
        (writeOutcome l r o s).readWord (slotBase l + 0x50) = packHalves r.code o.code :=
      fun h1 h2 => readWord_putWord s _ _ h1 h2
    generalize writeOutcome l r o s = t at *
    have w2 := postOrderDone_wrote l.val o.code r (levelDetail (s.slot l).seq) t
    have na : noticeArea t = noticeArea s := by unfold noticeArea; rw [tr]
    have hb := slotBase_bound l
    have nb := noticeArea_bound s
    rw [na] at w2
    refine ⟨⟨?_, fun hrd hw => ⟨?_, ?_⟩⟩, w1.trans w2 (by simp) (by simp)⟩
    · unfold postOrderDone; rw [postNotice_regs, tr]
    · rw [w2.readWord _ (by omega) (by simp; omega), rw0 hw hrd]
    · intro room
      have := postNotice_reads .orderDone l.val o.code r.code (levelDetail (s.slot l).seq) t (w1.wf hw)
        (by rw [tr]; exact hrd) (by unfold noticesWaiting at *; rw [tr]; exact room)
      rw [tr, tb, ho] at this
      exact this
  unfold reportEnd
  cases hf : (s.slot l).seq.flight
  · exact ⟨by simp [Flight.order], Wrote.refl _ _⟩
  · exact ⟨(fin .bringUp rfl).1, (fin .bringUp rfl).2⟩
  · exact ⟨(fin .recover rfl).1, (fin .recover rfl).2⟩
  · exact ⟨(fin .isolate rfl).1, (fin .isolate rfl).2⟩
  · exact ⟨(fin .powerDown rfl).1, (fin .powerDown rfl).2⟩
  · exact ⟨by simp [Flight.order], Wrote.refl _ _⟩
  · simp only [Flight.order, hr, hn, or_self, if_false, if_true]
    refine ⟨⟨by rw [postNotice_regs], fun h1 h2 => ?_⟩, (postNotice_wrote ..).mono (by simp)⟩
    have := postNotice_reads .autoRecoveryEnded l.val (s.slot l).seq.cause.code r.code (levelDetail (s.slot l).seq) s h2 h1
    rw [show (s.slot l).seq.cause.code / 256 = 0 by cases (s.slot l).seq.cause <;> rfl] at this
    exact this

/-- The end of a sequence with no CANCEL that waits, seen from an earlier state of the same event. -/
theorem endSequence_facts (l : Slot) (r : Result) (s v : State) (q : Sequencer) (A : List (Nat × Nat))
    (hr : r ≠ .railFault) (hn : r ≠ .noCard) (hc : (v.slot l).seq.cancelPending = false)
    (hf : (v.slot l).seq.flight = q.flight) (er : v.regs = s.regs) (et : v.timebase = s.timebase) (w : Wrote A s v) :
    (∀ j, (endSequence l r v).slot j =
      if j = l then { v.slot l with seq := { (v.slot l).seq with flight := .none } } else v.slot j) ∧
    SequenceReported l r q s (endSequence l r v) ∧
    Wrote [(slotBase l + 0x50, 4), noticeArea s] v (endSequence l r v) := by
  obtain ⟨f, g⟩ := reportEnd_facts l r v hr hn
  have na : noticeArea v = noticeArea s := by unfold noticeArea; rw [er]
  rw [na] at g
  have es : ∀ j, (endSequence l r v).slot j =
      if j = l then { v.slot l with seq := { (v.slot l).seq with flight := .none } } else v.slot j := by
    intro j; unfold endSequence; simp [hc]
  have em : (endSequence l r v).mem = (reportEnd l r v).mem := by unfold endSequence; rw [hc]; rfl
  have erg : (endSequence l r v).regs = (reportEnd l r v).regs := by unfold endSequence; rw [hc]; rfl
  have nr : ∀ (w0 w1 w2 : Word), noticeReads v (reportEnd l r v) w0 w1 w2 →
      noticeReads s (endSequence l r v) w0 w1 w2 := by
    intro w0 w1 w2 h room
    have := h (by unfold noticesWaiting at *; rw [er]; exact room)
    rw [er, et] at this
    simp only [readWord_of_mem _ _ em]
    exact this
  have ed : (endSequence l r v).slot l = { v.slot l with seq := { (v.slot l).seq with flight := .none } } := by
    rw [es]; simp
  refine ⟨es, ?_, ⟨?_, fun h => by rw [em]; exact g.wf h, by rw [erg]; exact g.ready⟩⟩
  · unfold SequenceReported
    rw [hf] at f
    rw [ed]
    cases ho : q.flight.order with
    | some o =>
      rw [ho] at f
      refine ⟨by rw [erg, f.1, er], fun h1 h2 => ?_⟩
      have := f.2 (by rw [er]; exact h1) (w.wf h2)
      exact ⟨by rw [readWord_of_mem _ _ em]; exact this.1, nr _ _ _ this.2⟩
    | none =>
      rw [ho] at f
      by_cases ha : q.flight = .autoRecover
      · simp only [ha, if_true] at f ⊢
        refine ⟨by rw [erg, f.1, er], fun h1 h2 => nr _ _ _ (f.2 (by rw [er]; exact h1) (w.wf h2))⟩
      · simp only [ha, if_false] at f ⊢
        rw [erg, f, er]
  · intro a ha hd; rw [readByte_of_mem _ _ em]; exact g.same a ha hd

/-- Fields of the leader's record that the end of a sequence leaves are shown as before. -/
theorem endSequence_shown (l : Slot) (r : Result) (s v : State) (h : GroupShown l s v)
    (hs : ∀ j, (endSequence l r v).slot j =
      if j = l then { v.slot l with seq := { (v.slot l).seq with flight := .none } } else v.slot j)
    (w : Wrote [(slotBase l + 0x50, 4), noticeArea s] v (endSequence l r v)) :
    GroupShown l s (endSequence l r v) := by
  have nb := noticeArea_bound s
  refine h.later w ?_ ?_ ?_ ?_ ?_
  · intro m hm x hx
    have hb := slotBase_bound m
    have hl := slotBase_bound l
    simp only [List.mem_cons, List.not_mem_nil, or_false] at hx
    rcases hx with rfl | rfl
    · by_cases e : m = l
      · subst e; simp only; omega
      · have := slotBase_apart e; simp only; omega
    · omega
  · rw [hs]; simp [statusWord]
  · intro m hm; rw [hs m, hs l]; by_cases e : m = l <;> simp [e, flagsHalf]
  · rw [hs]; simp
  · rw [hs]; simp

/-! ### Entries with the power switched off -/

/-- The reset lines asserted and the rails switched off (R73, R119): every slot's record. -/
theorem resetAndOff_slot (l : Slot) (s : State) (hl : s.leaderOf l = l) (j : Slot) :
    (switchOff l (driveReset l true s)).slot j =
      if s.leaderOf j = l then
        { s.slot j with
          lines := { (if s.groupRail l then (s.slot j).lines.cut else (s.slot j).lines) with resetAsserted := true }
          seq := if j = l then
              (s.slot l).seq.discharges (s.groupRail l) (s.slot l).settings.dischargeDwell s.timebase
            else (s.slot j).seq }
      else s.slot j := by
  have gr : (driveReset l true s).groupRail l = s.groupRail l := by
    unfold State.groupRail
    rw [State.members_congr (s := s) (fun j => by simp)]
    congr 1; funext m; rw [driveReset_slot]; split <;> rfl
  rw [switchOff_slot l _ j (by rw [driveReset_leaderOf]; exact hl), gr]
  simp only [driveReset_leaderOf, driveReset_timebase, driveReset_slot, hl, if_true]
  by_cases e : j = l
  · subst e; cases s.groupRail j <;> simp [hl, Lines.cut]
  · by_cases e2 : s.leaderOf j = l
    · cases s.groupRail l <;> simp [e, e2, Lines.cut]
    · simp [e, e2]

/-- An entry of a state whose slots are those of `s` with the members' lines changed by `g` and the leader's record
`q`. -/
theorem enterState_lines (l : Slot) (st : SeqState) (why : Cause) (g : Lines → Lines) (q : Sequencer) (s u : State)
    (hl : s.leaderOf l = l) (ht : u.timebase = s.timebase)
    (hg : ∀ n : Lines, (g n).indicator = n.indicator ∧ (g n).locate = n.locate ∧
      g { n with risen := false, dwell := none, dwellEnded := false } =
        { g n with risen := false, dwell := none, dwellEnded := false } ∧
      ∀ d, g { n with indicator := d } = { g n with indicator := d })
    (h : ∀ j, u.slot j = if s.leaderOf j = l then
        { s.slot j with lines := g (s.slot j).lines, seq := if j = l then q else (s.slot j).seq } else s.slot j) :
    GroupEntered l st (q.enters st why s.timebase) g s (enterState l st why u) := by
  have hs : ∀ j, (u.slot j).settings = (s.slot j).settings := by intro j; rw [h]; split <;> rfl
  have hlu : u.leaderOf l = l := by rw [State.leaderOf_congr hs]; exact hl
  have ee := enterState_entered l st why u hlu
  have hq : (u.slot l).seq = q := by rw [h]; simp [hl]
  rw [hq, ht] at ee
  constructor
  · intro m hm
    rw [ee.1 m (by rw [State.leaderOf_congr hs]; exact hm), ht, h m, if_pos hm]
    obtain ⟨g1, g2, -, -⟩ := hg (s.slot m).lines
    obtain ⟨-, -, g3, -⟩ := hg { (s.slot m).lines with
      indicator := (s.slot m).lines.indicator.select (patternFor st (s.slot m).lines.locate) s.timebase }
    obtain ⟨-, -, -, g4⟩ := hg (s.slot m).lines
    have e : (fun n : Lines => g n) { (s.slot m).lines with
        risen := false, dwell := none, dwellEnded := false
        indicator := (s.slot m).lines.indicator.select (patternFor st (s.slot m).lines.locate) s.timebase } =
        { g (s.slot m).lines with
          risen := false, dwell := none, dwellEnded := false
          indicator := (s.slot m).lines.indicator.select (patternFor st (s.slot m).lines.locate) s.timebase } := by
      rw [g4] at g3; exact g3
    simp only at e
    simp only [SlotRec.enters, e, g1, g2, id]
    by_cases x : m = l <;> simp [x]
  · intro j hj
    rw [ee.2 j (by rw [State.leaderOf_congr hs]; exact hj), h j, if_neg hj]

end Sys2Proof.Machine
end

