-- ==== Sys2Proof/Laws/Table.lean ====
section
/-! SUPPORT. What the operations of the Pending Request Table do to its keys and positions (R22, R24, R37 to R41): one
lemma for each that says that `State.KeysApart` outlives it, and what it needs for that. -/

namespace Sys2Proof.Machine

/-! ### Positions (R22) -/

theorem mem_placeEntry (p : Nat) (e : Entry) (l : List (Nat × Entry)) (x : Nat × Entry) :
    x ∈ placeEntry p e l ↔ x = (p, e) ∨ x ∈ l := by
  induction l with
  | nil => simp [placeEntry]
  | cons y r ih =>
    unfold placeEntry
    split
    · simp
    · simp only [List.mem_cons, ih]; exact or_left_comm

/-- A symmetric relation between every two entries still holds after a place where the new one has it with all. -/
theorem pairwise_placeEntry {R : Nat × Entry → Nat × Entry → Prop} (p : Nat) (e : Entry) (l : List (Nat × Entry))
    (h : l.Pairwise R) (before : ∀ x ∈ l, x.1 ≤ p → R x (p, e)) (behind : ∀ x ∈ l, p < x.1 → R (p, e) x)
    (rising : l.Pairwise fun x y => x.1 < y.1) : (placeEntry p e l).Pairwise R := by
  induction l with
  | nil => simp [placeEntry]
  | cons y r ih =>
    rw [List.pairwise_cons] at h rising
    unfold placeEntry
    split
    case isTrue lt =>
      refine List.pairwise_cons.2 ⟨fun x hx => ?_, List.pairwise_cons.2 h⟩
      rcases List.mem_cons.1 hx with rfl | hr
      · exact behind _ List.mem_cons_self lt
      · exact behind x (List.mem_cons_of_mem _ hr) (Nat.lt_trans lt (rising.1 x hr))
    case isFalse ge =>
      refine List.pairwise_cons.2 ⟨fun x hx => ?_, ih h.2 (fun x hx => before x (List.mem_cons_of_mem _ hx))
        (fun x hx => behind x (List.mem_cons_of_mem _ hx)) rising.2⟩
      rcases (mem_placeEntry p e r x).1 hx with rfl | hr
      · exact before y List.mem_cons_self (Nat.le_of_not_lt ge)
      · exact h.1 x hr

/-- The lowest free position from `k` on, of positions that rise from `k`, is none of theirs. -/
theorem lowestFree_free (k : Nat) (l : List (Nat × Entry)) (rising : l.Pairwise fun x y => x.1 < y.1)
    (from_ : ∀ x ∈ l, k ≤ x.1) : ∀ x ∈ l, x.1 ≠ lowestFree k l := by
  induction l generalizing k with
  | nil => simp
  | cons y r ih =>
    obtain ⟨p, e⟩ := y
    rw [List.pairwise_cons] at rising
    unfold lowestFree
    split
    case isTrue eq =>
      subst eq
      have up : ∀ x ∈ r, p + 1 ≤ x.1 := fun x hx => rising.1 x hx
      have low : ∀ (l : List (Nat × Entry)) (n : Nat), n ≤ lowestFree n l := by
        intro l
        induction l with
        | nil => intro n; exact Nat.le_refl n
        | cons z t h =>
          intro n; obtain ⟨q, f⟩ := z
          unfold lowestFree; split
          · exact Nat.le_trans (Nat.le_succ n) (h (n + 1))
          · exact Nat.le_refl n
      intro x hx
      rcases List.mem_cons.1 hx with rfl | hr
      · exact Nat.ne_of_lt (low r (p + 1))
      · exact ih (p + 1) rising.2 up x hr
    case isFalse ne =>
      intro x hx eq
      rcases List.mem_cons.1 hx with rfl | hr
      · exact ne eq
      · have := rising.1 x hr
        have := from_ _ List.mem_cons_self
        omega

/-! ### What every operation on the table leaves alone -/

@[simp] theorem createEntry_slot (e : Entry) (s : State) (j : Slot) : (createEntry e s).slot j = s.slot j := rfl
@[simp] theorem endEntry_slot (p : Nat) (s : State) (j : Slot) : (endEntry p s).slot j = s.slot j := rfl
@[simp] theorem retireKey_slot (k : RetiredTag) (s : State) (j : Slot) : (retireKey k s).slot j = s.slot j := rfl
@[simp] theorem unretireKey_slot (k : RetiredTag) (s : State) (j : Slot) : (unretireKey k s).slot j = s.slot j := rfl
@[simp] theorem purgeRetired_slot (i : Slot) (s : State) (j : Slot) : (purgeRetired i s).slot j = s.slot j := rfl

/-! ### The keys (R37, R39) -/

/-- The keys stay apart in a state with fewer entries, fewer retired tags and fewer held requests. -/
theorem State.KeysApart.fewer {s t : State} (h : s.KeysApart) (entries : t.prt.entries.Sublist s.prt.entries)
    (retired : t.prt.retired.Sublist s.prt.retired)
    (held : ∀ i x, (t.slot i).gate.held = some x → (s.slot i).gate.held = some x) : t.KeysApart where
  rising := h.rising.sublist entries
  live := h.live.sublist entries
  retired := h.retired.sublist retired
  apart x hx f k := h.apart x (entries.subset hx) f (retired.subset k)
  held i x hx :=
    ⟨fun k => (h.held i x (held i x hx)).1 (retired.subset k),
      fun y hy => (h.held i x (held i x hx)).2 y (entries.subset hy)⟩

/-- The keys stay apart where entries, retired tags and held requests are the same. -/
theorem State.KeysApart.same {s t : State} (h : s.KeysApart) (entries : t.prt.entries = s.prt.entries)
    (retired : t.prt.retired = s.prt.retired) (held : ∀ i, (t.slot i).gate.held = (s.slot i).gate.held) : t.KeysApart :=
  h.fewer (entries ▸ List.Sublist.refl _) (retired ▸ List.Sublist.refl _) fun i _ hx => held i ▸ hx

theorem State.KeysApart.endEntry {s : State} (h : s.KeysApart) (p : Nat) : (Machine.endEntry p s).KeysApart :=
  h.fewer List.filter_sublist (List.Sublist.refl _) fun _ _ => id

theorem State.KeysApart.unretireKey {s : State} (h : s.KeysApart) (k : RetiredTag) : (Machine.unretireKey k s).KeysApart :=
  h.fewer (List.Sublist.refl _) List.filter_sublist fun _ _ => id

theorem State.KeysApart.purgeRetired {s : State} (h : s.KeysApart) (i : Slot) : (Machine.purgeRetired i s).KeysApart :=
  h.fewer (List.Sublist.refl _) List.filter_sublist fun _ _ => id

/-- A key may be retired that is not retired, of no live FABRIC entry and of no held request: that of an entry
which has just ended (R39). -/
theorem State.KeysApart.retireKey {s : State} (h : s.KeysApart) (k : RetiredTag) (new : k ∉ s.prt.retired)
    (ended : ∀ x ∈ s.prt.entries, x.2.origin = .fabric → x.2.key ≠ k)
    (other : ∀ i x, (s.slot i).gate.held = some x → k ≠ ⟨i, x.req.requester, x.req.tag⟩) :
    (Machine.retireKey k s).KeysApart := by
  have kept : (if s.prt.retired.length < 32 then s.prt.retired else s.prt.retired.drop 1).Sublist s.prt.retired := by
    split
    · exact List.Sublist.refl _
    · exact List.drop_sublist _ _
  refine ⟨h.rising, h.live, ?_, fun x hx f m => ?_, fun i x hx => ⟨fun m => ?_, (h.held i x hx).2⟩⟩
  · refine List.nodup_append.2 ⟨h.retired.sublist kept, by simp, fun a ha b hb eq => ?_⟩
    exact new (kept.subset (List.mem_singleton.1 hb ▸ eq ▸ ha))
  · rcases List.mem_append.1 m with m | m
    · exact h.apart x hx f (kept.subset m)
    · exact ended x hx f (List.mem_singleton.1 m)
  · rcases List.mem_append.1 m with m | m
    · exact (h.held i x hx).1 (kept.subset m)
    · exact other i x hx (List.mem_singleton.1 m).symm

/-- Appending one key is a step of `retiredAfter`, so a fence's keys are appended in the order of its stand-ins. -/
@[simp] theorem retireKey_retired (k : RetiredTag) (s : State) :
    (retireKey k s).prt.retired = retiredAfter s.prt.retired [k] := rfl

theorem retiredAfter_append (old a b : List RetiredTag) :
    retiredAfter old (a ++ b) = retiredAfter (retiredAfter old a) b := List.foldl_append

/-- The retired tag list stays at its size of 32 (R39). -/
theorem retiredAfter_length (old keys : List RetiredTag) (h : old.length ≤ 32) :
    (retiredAfter old keys).length ≤ 32 := by
  induction keys generalizing old with
  | nil => exact h
  | cons k r ih =>
    refine ih _ ?_
    dsimp only
    split <;> simp <;> omega

/-- An entry may be created that is of no FABRIC origin, or whose key is of no live FABRIC entry, not retired and of
no held request (R7, R9, R40). -/
theorem State.KeysApart.createEntry {s : State} (h : s.KeysApart) (e : Entry)
    (live : e.origin = .fabric → ∀ x ∈ s.prt.entries, x.2.origin = .fabric → x.2.key ≠ e.key)
    (retired : e.origin = .fabric → e.key ∉ s.prt.retired)
    (held : e.origin = .fabric → ∀ i x, (s.slot i).gate.held = some x → e.key ≠ ⟨i, x.req.requester, x.req.tag⟩) :
    (Machine.createEntry e s).KeysApart := by
  have free := lowestFree_free 0 s.prt.entries h.rising fun _ _ => Nat.zero_le _
  refine ⟨pairwise_placeEntry _ e _ h.rising (fun x hx le => Nat.lt_of_le_of_ne le (free x hx)) (fun _ _ lt => lt) h.rising,
    pairwise_placeEntry _ e _ h.live (fun x hx _ f g => live g x hx f)
      (fun x hx _ g f eq => live g x hx f eq.symm) h.rising,
    h.retired, fun x hx f => ?_, fun i x hx => ⟨(h.held i x hx).1, fun y hy f => ?_⟩⟩
  · rcases (mem_placeEntry _ _ _ _).1 hx with rfl | hx
    · exact retired f
    · exact h.apart x hx f
  · rcases (mem_placeEntry _ _ _ _).1 hy with rfl | hy
    · exact held f i x hx
    · exact (h.held i x hx).2 y hy f

/-- A live entry may be replaced by one of its origin and key (R32). -/
theorem State.KeysApart.updateEntry {s : State} (h : s.KeysApart) (p : Nat) (e : Entry)
    (same : ∀ x ∈ s.prt.entries, x.1 = p → x.2.origin = e.origin ∧ x.2.key = e.key) :
    (Machine.updateEntry p e s).KeysApart := by
  have as : ∀ x ∈ s.prt.entries, ∀ y : Nat × Entry, y = (if x.1 == p then (p, e) else x) →
      y.1 = x.1 ∧ y.2.origin = x.2.origin ∧ y.2.key = x.2.key := by
    rintro x hx y rfl
    split
    case isTrue eq =>
      have eq := eq_of_beq eq
      exact ⟨eq.symm, (same x hx eq).1.symm, (same x hx eq).2.symm⟩
    case isFalse => exact ⟨rfl, rfl, rfl⟩
  have pair : ∀ {R : Nat × Entry → Nat × Entry → Prop}, s.prt.entries.Pairwise R →
      (∀ a ∈ s.prt.entries, ∀ b ∈ s.prt.entries, R a b →
        R (if a.1 == p then (p, e) else a) (if b.1 == p then (p, e) else b)) →
      (Machine.updateEntry p e s).prt.entries.Pairwise R := fun l k =>
    List.pairwise_map.2 (l.imp_of_mem fun ha hb r => k _ ha _ hb r)
  refine ⟨pair h.rising fun a ha b hb r => ?_, pair h.live fun a ha b hb r f g => ?_, h.retired, fun x hx f => ?_,
    fun i x hx => ⟨(h.held i x hx).1, fun y hy f => ?_⟩⟩
  · rw [(as a ha _ rfl).1, (as b hb _ rfl).1]; exact r
  · rw [(as a ha _ rfl).2.2, (as b hb _ rfl).2.2]
    exact r ((as a ha _ rfl).2.1 ▸ f) ((as b hb _ rfl).2.1 ▸ g)
  · obtain ⟨z, hz, rfl⟩ := List.mem_map.1 hx
    rw [(as z hz _ rfl).2.2]; exact h.apart z hz ((as z hz _ rfl).2.1 ▸ f)
  · obtain ⟨z, hz, rfl⟩ := List.mem_map.1 hy
    rw [(as z hz _ rfl).2.2]; exact (h.held i x hx).2 z hz ((as z hz _ rfl).2.1 ▸ f)

/-! ### The pool wait list (R26, R28 to R30) -/

/-- A held request of slot `i` may be forwarded as it leaves the gate (R9, R29). -/
theorem State.KeysApart.forwardHeld {s : State} (h : s.KeysApart) (i : Slot) (x : HeldRequest)
    (hx : (s.slot i).gate.held = some x) :
    (forwardFabric i x.req (s.modGate i fun g => { g with held := none })).KeysApart := by
  have gone : (s.modGate i fun g => { g with held := none }).KeysApart :=
    h.fewer (List.Sublist.refl _) (List.Sublist.refl _) fun j y hy => by
      rw [State.modGate_slot] at hy
      split at hy
      · cases hy
      · exact hy
  have made := gone.createEntry (fabricEntry i x.req (s.modGate i fun g => { g with held := none }).timebase)
    (fun _ => (h.held i x hx).2) (fun _ => (h.held i x hx).1) fun _ j y hy eq => by
      have : i = j := congrArg RetiredTag.slot eq
      subst this
      rw [State.modGate_slot, if_pos rfl] at hy
      cases hy
  exact made.same rfl rfl fun j => by
    unfold forwardFabric sendCard
    rw [State.modSlot_slot]; split
    · subst j; rfl
    · rfl

theorem State.KeysApart.sendProbe {s : State} (h : s.KeysApart) (i : Slot) : (Machine.sendProbe i s).KeysApart :=
  (h.createEntry (probeEntry i s.timebase) (fun f => by cases f) (fun f => by cases f) fun f => by cases f).same rfl rfl
    fun j => by
      unfold Machine.sendProbe sendCard
      simp only [State.setProbe_slot, State.modSlot_slot, if_true]
      split
      · subst j; rfl
      · rfl

theorem State.KeysApart.sendRestoreWrite {s : State} (h : s.KeysApart) (j : Job) (d : Word) :
    (Machine.sendRestoreWrite j d s).KeysApart :=
  (h.createEntry (restoreEntry j.slot j.offset s.timebase) (fun f => by cases f) (fun f => by cases f)
    fun f => by cases f).same rfl rfl fun m => by
      show ((sendCard j.slot _ (Machine.createEntry _ s)).slot m).gate.held = _
      unfold sendCard
      rw [State.modSlot_slot]; split
      · subst m; rfl
      · rfl

theorem State.KeysApart.serveClaimant {s : State} (h : s.KeysApart) (c : Claimant) : (Machine.serveClaimant c s).KeysApart := by
  cases c with
  | gate i =>
    show (match (s.slot i).gate.held with
      | some x => forwardFabric i x.req (s.modGate i fun g => { g with held := none })
      | none => s).KeysApart
    split
    · exact h.forwardHeld i _ ‹_›
    · exact h
  | probe i => exact h.sendProbe i
  | restore =>
    unfold Machine.serveClaimant
    dsimp only
    split
    · exact h.sendRestoreWrite _ _
    · exact h

theorem State.KeysApart.servePool (n : Nat) : ∀ {s : State}, s.KeysApart → (Machine.servePool n s).KeysApart := by
  induction n with
  | zero => exact id
  | succ n ih =>
    intro s h
    unfold Machine.servePool
    split
    · exact h
    · split
      · exact ih (State.KeysApart.serveClaimant (s := s.modPrt _) (h.same rfl rfl fun _ => rfl) _)
      · exact h

theorem State.KeysApart.examinePool {s : State} (h : s.KeysApart) : (Machine.examinePool s).KeysApart :=
  State.KeysApart.servePool _ h

theorem State.KeysApart.joinPool {s : State} (h : s.KeysApart) (c : Claimant) : (Machine.joinPool c s).KeysApart := by
  have k : (s.modPrt fun t => { t with pool := t.pool ++ [c] }).KeysApart := h.same rfl rfl fun _ => rfl
  unfold Machine.joinPool
  dsimp only
  split
  · exact k.examinePool
  · exact k

theorem State.KeysApart.withdrawPool {s : State} (h : s.KeysApart) (c : Claimant) : (Machine.withdrawPool c s).KeysApart := by
  have k : (s.modPrt fun t => { t with pool := t.pool.filter (· != c) }).KeysApart := h.same rfl rfl fun _ => rfl
  unfold Machine.withdrawPool
  dsimp only
  split
  · exact k.examinePool
  · exact k

theorem State.KeysApart.setProbe {s : State} (h : s.KeysApart) (i : Slot) (p : Option ProbeState) :
    (s.setProbe i p).KeysApart :=
  h.same rfl rfl fun j => by
    rw [State.setProbe_slot]; split
    · subst j; rfl
    · rfl

theorem State.KeysApart.claimProbe {s : State} (h : s.KeysApart) (i : Slot) : (Machine.claimProbe i s).KeysApart := by
  unfold Machine.claimProbe
  split
  · exact h.sendProbe i
  · exact (h.setProbe i _).joinPool _

theorem State.KeysApart.freeEntryOf {s : State} (h : s.KeysApart) (o : Origin) (i : Slot) :
    (Machine.freeEntryOf o i s).KeysApart := by
  unfold Machine.freeEntryOf
  split
  · exact (h.endEntry _).examinePool
  · exact h

end Sys2Proof.Machine
end

