-- ==== Sys2Proof/WellFormed.lean ====
section
/-! DEFINITION. Which commands are in the spec's vocabulary: the ranges that 00_scope.md (Tables 3
and 4) and R155 give to the fields that the types leave wider. -/

namespace Sys2Proof

/-- A host non-posted request of Table 4: MEMORY READ 1 to 1024 dwords; config kinds 1 dword at a
dword-aligned offset; a CONFIG WRITE carries its dword. -/
def HostRequest.wf (r : HostRequest) : Bool :=
  match r.kind with
  | .memoryRead _ => decide (1 ≤ r.length) && decide (r.length ≤ 1024) && decide (r.data = [])
  | .configRead o => decide (r.length = 1) && decide (o.toNat % 4 = 0) && decide (r.data = [])
  | .configWrite o =>
    decide (r.length = 1) && decide (o.toNat % 4 = 0) && decide (r.data.length = 4)

/-- A MEMORY WRITE carries its dwords; a message request any payload. -/
def PostedWrite.wf (w : PostedWrite) : Bool :=
  match w.form with
  | .memoryWrite => decide (w.data.length = 4 * w.length)
  | .message => true

/-- A card MEMORY READ asks for 1 to 1024 dwords; a card MEMORY WRITE carries its dwords. The spec bounds a host's
reads only (Table 4); the bound on a card's is a DESIGN CHOICE, safe (notes/assumptions/31.md). -/
def CardRequest.wf (r : CardRequest) : Bool :=
  match r.form with
  | .memoryWrite => decide (r.data.length = 4 * r.length)
  | .memoryRead => decide (1 ≤ r.length) && decide (r.length ≤ 1024) && decide (r.data = [])

/-- A completion's byte count is at most 4,096, and its data, where it has any, are that many. The spec gives a
completion's byte count no bound; both tests are a DESIGN CHOICE, safe (notes/assumptions/31.md). -/
def Completion.wf (c : Completion) : Bool :=
  decide (c.byteCount ≤ 4096) && (decide (c.data = []) || decide (c.data.length = c.byteCount))

/-- An exchange word store is to a dword-aligned address. -/
def PlainTarget.wf : PlainTarget → Bool
  | .ident => true
  | .cause => true
  | .noticeMask => true
  | .noticeProduce => true
  | .timebase => true
  | .exchangeByte _ => true
  | .exchangeWord a => decide (a.toNat % 4 = 0)

/-- Whether a command is one that the spec's vocabulary allows. -/
def Instr.wf : Instr → Bool
  | .hostNonPostedRequest _ r => r.wf
  | .hostPostedWrite _ w => w.wf
  | .cardCompletion _ c => c.wf
  | .cardOriginatedRequest _ r => r.wf
  | .hostCompletionTowardCard _ c => c.wf
  | .poolHeadServed => true
  | .expirySweep => true
  | .fabricEntryExpiry _ => true
  | .probeRestoreEntryExpiry _ => true
  | .decayTick _ => true
  | .drainEmpty _ => true
  | .drainLimitExpiry _ => true
  | .resetHoldEnd _ => true
  | .trainLimitExpiry _ => true
  | .retryWaitEnd _ => true
  | .probeLimitExpiry _ => true
  | .dischargeTimerStop _ => true
  | .grant => true
  | .powerGoodRise _ => true
  | .powerGoodFall _ => true
  | .powerGoodLimitExpiry _ => true
  | .stabilityDwellEnd _ => true
  | .linkUp _ => true
  | .linkDown _ => true
  | .presenceLoss _ => true
  | .presenceGain _ => true
  | .alertEdge _ _ => true
  | .indicatorBlinkToggle _ => true
  | .pauseEnd _ => true
  | .orderTaking _ => true
  | .orderNone _ => true
  | .unknownOrder _ => true
  | .configure _ => true
  | .bringUp _ => true
  | .isolate _ => true
  | .resume _ => true
  | .recover _ => true
  | .powerDown _ => true
  | .cancel _ => true
  | .refill _ => true
  | .locate _ => true
  | .listPending _ => true
  | .setCommon => true
  | .controlWrite v => !v.getLsbD 2
  | .controlReset v => v.getLsbD 2
  | .attentionWrite _ => true
  | .causeRead => true
  | .noticeConsumeWrite _ => true
  | .registerWrite t _ => t.wf
  | .powerOnReset _ => true
  | .ready => true

end Sys2Proof
end

