-- ==== Sys2Proof/Tests/Slice0.lean ====
section
/-! SUPPORT. The model's own tests: ill-formed terms that WellFormed refuses, a concrete state for the
hypotheses of each statement, and single commands with the results that the spec's tables give. -/

-- The tests are elaborated one after another: each thread of its own would ask for a stack of its own.
set_option Elab.async false

namespace Sys2Proof.Tests

open Sys2Proof Sys2Proof.Machine

/-! ### Ill-formed terms (00_scope.md, Transaction vocabulary; R155) -/

theorem test_wf_refuses_empty_memory_read :
    (Instr.hostNonPostedRequest 0 ⟨.memoryRead 0, 1, 2, 0, []⟩).wf = false := by decide

theorem test_wf_refuses_long_memory_read :
    (Instr.hostNonPostedRequest 0 ⟨.memoryRead 0, 1, 2, 1025, []⟩).wf = false := by decide

theorem test_wf_refuses_memory_read_with_data :
    (Instr.hostNonPostedRequest 0 ⟨.memoryRead 0, 1, 2, 1, [0]⟩).wf = false := by decide

theorem test_wf_refuses_long_config_read :
    (Instr.hostNonPostedRequest 0 ⟨.configRead 0, 1, 2, 2, []⟩).wf = false := by decide

theorem test_wf_refuses_unaligned_config_read :
    (Instr.hostNonPostedRequest 0 ⟨.configRead 2, 1, 2, 1, []⟩).wf = false := by decide

theorem test_wf_refuses_config_read_with_data :
    (Instr.hostNonPostedRequest 0 ⟨.configRead 0, 1, 2, 1, [0]⟩).wf = false := by decide

theorem test_wf_refuses_long_config_write :
    (Instr.hostNonPostedRequest 0 ⟨.configWrite 0, 1, 2, 2, [0, 0, 0, 0]⟩).wf = false := by decide

theorem test_wf_refuses_unaligned_config_write :
    (Instr.hostNonPostedRequest 0 ⟨.configWrite 1, 1, 2, 1, [0, 0, 0, 0]⟩).wf = false := by decide

theorem test_wf_refuses_config_write_without_data :
    (Instr.hostNonPostedRequest 0 ⟨.configWrite 0, 1, 2, 1, []⟩).wf = false := by decide

theorem test_wf_refuses_short_memory_write :
    (Instr.hostPostedWrite 0 ⟨.memoryWrite, 1, 2, 0, 1, [0]⟩).wf = false := by decide

theorem test_wf_refuses_short_card_write :
    (Instr.cardOriginatedRequest 0 ⟨.memoryWrite, 1, 2, 0, 1, []⟩).wf = false := by decide

theorem test_wf_refuses_long_card_read :
    (Instr.cardOriginatedRequest 0 ⟨.memoryRead, 1, 2, 0, 1025, []⟩).wf = false := by decide

theorem test_wf_refuses_large_byte_count :
    (Instr.cardCompletion 0 ⟨1, 2, .success, 4097, []⟩).wf = false := by decide

theorem test_wf_refuses_miscounted_data :
    (Instr.hostCompletionTowardCard 0 ⟨1, 2, .success, 4, [0]⟩).wf = false := by decide

theorem test_wf_refuses_unaligned_word_store :
    (Instr.registerWrite (.exchangeWord 2) 0).wf = false := by decide

theorem test_wf_refuses_control_write_with_reset : (Instr.controlWrite 4).wf = false := by decide

theorem test_wf_refuses_control_reset_without_reset : (Instr.controlReset 3).wf = false := by decide

/-! ### Small states -/

/-- The state after a command. -/
def after (c : Instr) (s : State) : State :=
  match exec c s with
  | .next t => t
  | .fault _ => s
  | .refused _ => s

/-- The part with READY and RUN set. -/
def base : State := { State.reset with regs := { State.reset.regs with ready := true, run := true } }

/-- Slot 0 in a sequencer state, its card present and powered, its link up. -/
def inState (st : SeqState) : State :=
  (base.modSeq 0 fun q => { q with state := st }).modLines 0 fun n =>
    { n with present := true, rail := true, powerGood := true, resetAsserted := false, clock := true, linkUp := true }

/-- The record of slot 0's sequencer changed. -/
def withSeq (f : Sequencer → Sequencer) (s : State) : State := s.modSeq 0 f

/-- The lines of slot 0 changed. -/
def withLines (f : Lines → Lines) (s : State) : State := s.modLines 0 f

/-- The settings of slot 0 changed. -/
def withSettings (f : Settings → Settings) (s : State) : State :=
  s.modSlot 0 fun r => { r with settings := f r.settings }

/-- A state whose Pending Request Table has the given live entries and pool wait list. -/
def withTable (l : List (Nat × Entry)) (p : List Claimant) (s : State) : State :=
  { s with prt := { s.prt with entries := l, pool := p } }

/-- A FABRIC memory read of slot 0 of two dwords, tag 5. -/
def fabric : Entry := ⟨0, .fabric, .memoryRead 0x1000, 0x0100, 5, 2, 8, 0, 0, []⟩

/-- Slot 0's identity read. -/
def identityRead : Entry := ⟨0, .probe, .configRead 0, 0xFFFF, 1022, 1, 4, 0, 0, []⟩

/-- The memory read that `fabric` is the entry of. -/
def request : HostRequest := ⟨.memoryRead 0x1000, 0x0100, 5, 2, []⟩

/-- The part with an order word in a slot record and the record's attention bit pending. -/
def ordered (i : Slot) (o : Order) (s : State) : State :=
  { putWord (slotBase i + 0x40) (BitVec.ofNat 32 o.code) s with
    regs := { s.regs with attention := BitVec.twoPow 9 i.val } }

/-! ### A state for the hypotheses of each statement -/

theorem witness_StepRunsTheFrontCommand :
    { base with pending := [.causeRead, .ready] }.pending = .causeRead :: [.ready] := by decide

/-- Slot 0 ONLINE with a request kept back behind a gate that holds none any more. -/
def keeping : State := (inState .online).modGate 0 fun g => { g with kept := [request] }

theorem witness_EmptyQueueLetsTimePass :
    { base with timebase := 1 }.pending = [] ∧ { base with timebase := 1 }.dueCommand = none ∧
    (∀ i, ({ base with timebase := 1 }.slot i).gate.kept = []) ∧ base.dueCommand = some .expirySweep ∧
    (keeping.slot 0).gate.held = none ∧ (keeping.slot 0).gate.kept = [request] ∧ keeping.pending = [] := by
  decide +kernel

theorem witness_NoticeWrittenOrDropped : Memory.wf base.mem = true ∧ base.regs.ready = true := by decide +kernel

theorem witness_HostRequestForwarded :
    (inState .online).gateState 0 = .opened ∧ ((inState .online).slot 0).gate.held = none ∧
    ((inState .online).slot 0).gate.kept = [] ∧ (inState .online).prt.entries = [] ∧
    (inState .online).liveFabric 0 < ((inState .online).slot 0).settings.quota ∧
    (inState .online).prt.pool = [] := by decide +kernel

/-- A full quota: the boundary of the second clause. -/
def quotaSpent : State := withTable [(0, { fabric with tag := 6 })] [] (withSettings (fun c => { c with quota := 1 }) (inState .online))

theorem witness_HostRequestHeldOrKept :
    ((after (.hostNonPostedRequest 0 request) quotaSpent).slot 0).gate.held ≠ none ∧
    quotaSpent.gateState 0 = .opened ∧ (quotaSpent.slot 0).gate.held = none ∧ (quotaSpent.slot 0).gate.kept = [] ∧
    (∀ x ∈ quotaSpent.prt.entries, x.2.tag ≠ request.tag) ∧
    quotaSpent.liveFabric 0 = (quotaSpent.slot 0).settings.quota := by decide +kernel

theorem witness_HostRequestStandIns :
    (base.slot 0).gate.held = none ∧ (base.slot 0).gate.kept = [] ∧ base.gateState 0 ≠ .opened ∧
    (withTable [(0, fabric)] [] (inState .online)).gateState 0 = .opened ∧
    ((withTable [(0, fabric)] [] (inState .online)).slot 0).gate.held = none := by decide +kernel


/-- A state at several bounds: 128 notices wait, a score of 4095, an allowance of 15, saturated counts. -/
def atBounds : State :=
  { (inState .online).modSlot 0 fun r => { r with
      meter := { r.meter with score := 4095 }
      seq := { r.seq with allowance := 15 }
      gate := { r.gate with postedDiscarded := 4294967295, cardDiscarded := 4294967295 }
      ring := { r.ring with notWritten := 65535 } } with
    regs := { base.regs with produce := 128, consume := 0 }
    arb := { base.arb with granted := 128 } }

/-- The bounds of a state from one check of its parts and one of its slots. -/
theorem bounded_of_checks {s : State}
    (parts : Memory.wf s.mem = true ∧ (s.regs.produce - s.regs.consume).toNat ≤ 128 ∧ s.prt.entries.length ≤ 96 ∧
      s.prt.retired.length ≤ 32 ∧ s.arb.granted ≤ s.arb.total)
    (slots : ∀ i, ((s.slot i).meter.score ≤ 4095 ∧ (s.slot i).seq.allowance ≤ 15) ∧
      ((s.slot i).gate.postedDiscarded ≤ 4294967295 ∧ (s.slot i).gate.cardDiscarded ≤ 4294967295) ∧
      (s.slot i).ring.notWritten ≤ 65535)
    (events : ∀ i k, (s.slot i).meter.counts.get k ≤ 65535) : s.Bounded where
  memory := parts.1
  notices := parts.2.1
  entries := parts.2.2.1
  retired := parts.2.2.2.1
  granted := parts.2.2.2.2
  score i := (slots i).1.1
  allowance i := (slots i).1.2
  posted i := (slots i).2.1.1
  cards i := (slots i).2.1.2
  lost i := (slots i).2.2
  events := events

theorem atBounds_events : ∀ i k, (atBounds.slot i).meter.counts.get k ≤ 65535 := by
  intro i k
  cases k <;> revert i <;> decide +kernel

theorem witness_EveryStepKeepsTheBounds : atBounds.Bounded ∧ ∃ t, step atBounds = .next t := by
  refine ⟨bounded_of_checks ?_ ?_ atBounds_events, _, rfl⟩ <;> decide +kernel

/-- A live entry, a retired tag and a held request, each of its own key. -/
def keysStand : State :=
  let s := (inState .online).modGate 0 fun g => { g with held := some ⟨{ request with tag := 7 }, 0⟩ }
  { s with prt := { s.prt with entries := [(0, fabric)], retired := [⟨0, 0x0100, 6⟩], pool := [.gate 0] } }

theorem keysStand_held : ∀ i h, (keysStand.slot i).gate.held = some h →
    i = 0 ∧ h = ⟨{ request with tag := 7 }, 0⟩ := by
  intro i h e
  have : ∀ i, (keysStand.slot i).gate.held = if i = 0 then some ⟨{ request with tag := 7 }, 0⟩ else none := by
    decide +kernel
  rw [this] at e
  split at e
  · exact ⟨‹_›, (Option.some.inj e).symm⟩
  · cases e

theorem witness_EveryStepAnswersNext : keysStand.KeysApart ∧ keysStand.regs.ready = true := by
  refine ⟨⟨?_, ?_, ?_, ?_, ?_⟩, ?_⟩
  case refine_5 =>
    intro i h e
    obtain ⟨rfl, rfl⟩ := keysStand_held i h e
    decide +kernel
  all_goals decide +kernel

/-- Slot 0 of `keysStand` in another state, with other settings, under a limit that is just over. -/
def leaving (st : SeqState) (f : Sequencer → Sequencer) (g : Settings → Settings) : State :=
  keysStand.modSlot 0 fun r => { r with
    seq := f { r.seq with state := st, flight := .recover, limit := some ⟨0xFFFFFFF0, 16⟩ }
    settings := g r.settings }

/-- The keys of `leaving` stand apart, and only the gate of the group waits. -/
theorem leaving_apart (st : SeqState) (f : Sequencer → Sequencer) (g : Settings → Settings) :
    (leaving st f g).KeysApart ∧ ∀ l, (leaving st f g).leaderOf 0 = l → (leaving st f g).onlyGatesWait l := by
  refine ⟨witness_EveryStepAnswersNext.1.same rfl rfl fun i => ?_, fun l h c hc => ⟨0, ?_, h⟩⟩
  · unfold leaving
    rw [State.modSlot_slot]
    split
    · next e => rw [e]
    · rfl
  · simpa [leaving, keysStand] using hc

theorem witness_ItemWordFields :
    ∀ k, k < 32 → (k < 10 ∨ 28 ≤ k → (0x10000005 : Word).getLsbD k = (0x1FFFFC05 : Word).getLsbD k) := by decide

/-- Slot 0 with an abort ring of count 4 at 0x2000. -/
def ringed (produce : Half) : State :=
  (withSettings (fun c => { c with ringBase := 0x2000, ringCount := 4 }) base).modRing 0 fun r =>
    { r with produce := produce }

theorem witness_AbortRecordWritten :
    (base.slot 0).settings.ringCount = 0 ∧
    Memory.wf (ringed 3).mem = true ∧ (ringed 3).regs.ready = true ∧ ((ringed 3).slot 0).settings.ringCount = 4 ∧
    ((ringed 3).slot 0).settings.ringBase = 0x2000 ∧
    (((ringed 3).slot 0).ring.produce - (ringed 3).abortConsume 0).toNat = 3 := by decide +kernel

theorem witness_AbortRecordLost :
    Memory.wf (ringed 4).mem = true ∧ (ringed 4).regs.ready = true ∧ ((ringed 4).slot 0).settings.ringCount ≠ 0 ∧
    (((ringed 4).slot 0).ring.produce - (ringed 4).abortConsume 0).toNat = 4 ∧
    ((ringed 4).slot 0).ring.full = false ∧
    (((ringed 4).modRing 0 fun r => { r with full := true }).slot 0).ring.full = true := by decide +kernel

/-- For PostedWriteForwardedOrCounted, CardRequestHandled, HostCompletionForwardedOrCounted and
FencedCompletionDiscarded: a state of each gate state (Table 1-2). -/
theorem witness_gate_states :
    (inState .online).gateState 0 = .opened ∧ (inState .draining).gateState 0 = .drain ∧
    (inState .isolated).gateState 0 = .fenced ∧ (inState .probing).gateState 0 = .privatePath ∧
    (∀ x ∈ (withTable [(0, identityRead)] [] (inState .probing)).prt.entries, x.2.tag ≠ 1023) ∧
    (∀ i, ((inState .probing).slot i).gate.cardDiscarded ≠ 4294967295) ∧
    (atBounds.slot 0).gate.cardDiscarded = 4294967295 := by decide +kernel

theorem witness_CompletionWithinBytesOwed :
    let s := withTable [(0, fabric)] [] (inState .online)
    s.gateState 0 = .opened ∧ s.prt.pool = [] ∧
    s.findEntry (fun x => x.origin == .fabric && x.slot == 0 && (x.slot == 0 && x.requester == 0x0100 && x.tag == 5))
      = some (0, fabric) ∧ fabric.owed = 8 ∧ (s.slot 0).settings.ringCount = 0 ∧
    (s.slot 0).meter.score + (s.slot 0).settings.weight .malformed < (s.slot 0).settings.isolate := by decide +kernel

theorem witness_CompletionWithinBytesOwed_drain :
    let one := withTable [(0, fabric)] [] (inState .draining)
    let two := withTable [(0, fabric), (1, { fabric with tag := 6 })] [] (inState .draining)
    one.gateState 0 = .drain ∧ one.liveFabric 0 = 1 ∧ two.liveFabric 0 = 2 ∧ one.leaderOf 0 = 0 ∧
    (one.findEntry (fun x => x.origin == .fabric && x.slot == 0 && x.tag == 5)).map Prod.fst = some 0 := by decide +kernel

theorem witness_LateAndStrayCompletions :
    let s := { inState .online with prt := { base.prt with retired := [⟨0, 0x0100, 5⟩] } }
    s.gateState 0 = .opened ∧ (inState .draining).gateState 0 = .drain ∧ s.prt.entries = [] ∧
    s.prt.retired.contains ⟨0, 0x0100, 5⟩ = true ∧ s.prt.retired.contains ⟨0, 0x0100, 6⟩ = false ∧
    (s.slot 0).meter.score + (s.slot 0).settings.weight .late < (s.slot 0).settings.isolate := by decide +kernel

/-- Slot 0 in PROBING with its identity read outstanding and an expected identity. -/
def probed : State :=
  (withTable [(0, identityRead)] []
    (withSettings (fun c => { c with identity := 0x12345678 }) (inState .probing))).setProbe 0 (some .outstanding)

theorem witness_IdentityReadAnswered :
    (probed.slot 0).seq.state = .probing ∧ (probed.slot 0).seq.cancelPending = false ∧
    (probed.slot 0).seq.fixedOutcome = none ∧ (probed.slot 0).probe = some .outstanding ∧ probed.prt.pool = [] ∧
    probed.findEntry (fun e => e.origin != .fabric && (e.slot == 0 && e.requester == 0xFFFF && e.tag == 1022)) =
      some (0, ⟨0, .probe, .configRead 0, 0xFFFF, 1022, 1, 4, 0, 0, []⟩) ∧
    probed.groupRail 0 = true ∧ probed.members 0 = [0] ∧ (probed.slot 0).settings.identity = 0x12345678 ∧
    wordOfBytes 0x78 0x56 0x34 0x12 = 0x12345678 ∧ wordOfBytes 0xFF 0xFF 0xFF 0xFF = 0xFFFFFFFF ∧
    wordOfBytes 0xFE 0xFF 0xFF 0xFF ≠ 0xFFFFFFFF ∧ (probed.slot 0).settings.imageLength = 0 ∧
    ((withSettings (fun c => { c with imageLength := 16 }) probed).slot 0).settings.imageLength ≠ 0 ∧
    (probed.slot 0).seq.probeLimitPassed = false := by decide +kernel

/-- Slots 0 and 1 as one group in PROBING, with a CANCEL that waits for slot 0's read and slot 1's at `other`. -/
def cancelled (other : ProbeState) : State :=
  ((probed.modSlot 0 fun r => { r with settings := { r.settings with join := true } }).setProbe 1 (some other)).modSeq 0
    fun q => { q with flight := .recover, cancelPending := true }

theorem witness_IdentityReadAnswered_cancel :
    (∀ p, ((cancelled p).slot 0).seq.cancelPending = true ∧ ((cancelled p).slot 0).seq.flight ≠ .none ∧
      ((cancelled p).slot 0).probe = some .outstanding ∧ (cancelled p).leaderOf 1 = 0) ∧
    ((cancelled .outstanding).slot 1).probe = some .outstanding ∧
    (∀ m, (cancelled .answered).leaderOf m = 0 → m ≠ 0 → ((cancelled .answered).slot m).probe ≠ some .outstanding) := by
  refine ⟨fun p => ⟨rfl, ?_, rfl, rfl⟩, rfl, ?_⟩
  · intro h; cases h
  · decide +kernel

/-- With the outcome fixed before, or an identity that differs, while another read is outstanding or with none. -/
theorem witness_IdentityReadAnswered_fixed :
    (∀ k ∈ ([.probeOnes, .identityMismatch] : List Cause), ∀ p ∈ ([.outstanding, .answered] : List ProbeState),
      let s := withSeq (fun q => { q with cancelPending := false, fixedOutcome := some k }) (cancelled p)
      (s.slot 0).seq.fixedOutcome = some k ∧ (s.slot 0).probe = some .outstanding ∧ (s.slot 1).probe = some p ∧
      s.leaderOf 1 = 0 ∧ s.groupRail 0 = true) ∧
    wordOfBytes 0x79 0x56 0x34 0x12 ≠ ((cancelled .outstanding).slot 0).settings.identity := by decide +kernel

/-- Slot 0's last read before RESTORING, the engine idle, with a first item word in its image. -/
def imaged (w : Word) : State :=
  (withSettings (fun c => { c with imageBase := 0x3000, imageLength := 12 }) probed).storeWord 0x3000 w

theorem witness_IdentityReadAnswered_restoring :
    (∀ w, (imaged w).engine.phase = .idle ∧ (imaged w).engine.queue = [] ∧ (imaged w).members 0 = [0] ∧
      ((imaged w).slot 0).settings.imageLength = 12 ∧ (imaged w).prt.entries.length = 1) ∧
    (imaged 0x10000002).readWord 0x3000 = 0x10000002 ∧ (imaged 0x20000000).readWord 0x3000 = 0x20000000 := by
  refine ⟨fun w => ⟨rfl, rfl, rfl, rfl, rfl⟩, ?_, ?_⟩ <;> decide +kernel

/-- A table with one free position, 95. -/
def almostFull : List (Nat × Entry) :=
  (List.range 95).map fun k => (k, { fabric with slot := 1, requester := BitVec.ofNat 16 k })

/-- A restore job of slot 0 at dword 2 of its config space. -/
def job : Job := ⟨0, 0x3000, 16, 0, some (.dataItem 2 4), 8, 0, false⟩

theorem witness_PoolHeadIsServed :
    almostFull.length = 95 ∧
    ((withTable almostFull [.gate 0, .gate 1] (inState .online)).modGate 0 fun g =>
      { g with held := some ⟨request, 0⟩ }).liveFabric 0 = 0 ∧
    (withTable [] [.probe 0] (inState .probing)).prt.pool = [.probe 0] ∧
    { withTable [] [.restore] (inState .restoring) with
      engine := { base.engine with queue := [job], phase := .claimWait 7 } }.engine.phase = .claimWait 7 := by
  decide +kernel

/-- No claimant, no position, and a gate at its quota in front of a claimant that could be served. -/
theorem witness_PoolHeadIsServed_stuck :
    base.prt.pool = [] ∧ (almostFull ++ [(95, fabric)]).length = 96 ∧
    ((withTable [(0, fabric)] [.gate 0, .probe 1] quotaSpent).slot 0).settings.quota =
      (withTable [(0, fabric)] [.gate 0, .probe 1] quotaSpent).liveFabric 0 ∧
    (withTable [(0, fabric)] [.gate 0, .probe 1] quotaSpent).prt.pool.head? = some (.gate 0) := by decide +kernel

theorem witness_SweepBegins : base.prt.sweep = none ∧ base.timebase.toNat % 16 = 0 ∧
    { base with timebase := 15 }.timebase.toNat % 16 ≠ 0 := by decide +kernel

/-- A sweep that has come to an entry whose age is exactly its limit. -/
def sweeping (e : Entry) (st : SeqState) : State :=
  let s := withTable [(3, e)] [] (inState st)
  { s with timebase := 65536, prt := { s.prt with sweep := some ⟨BitVec.ofNat 32 (s.limitOf e), [3]⟩ } }

theorem witness_FabricEntryExpires :
    let s := sweeping fabric .online
    s.prt.sweep = some ⟨16384, [3]⟩ ∧ s.prt.pool = [] ∧
    [3].find? (fun q => s.expiredAt 16384 q) = some 3 ∧ [3].find? (fun q => s.expiredAt 16383 q) = none ∧
    s.entryAt 3 = some fabric ∧ s.stateOf 0 = .online ∧ (s.slot 0).settings.ringCount = 0 ∧
    (s.slot 0).meter.score + (s.slot 0).settings.weight .timeout < (s.slot 0).settings.isolate := by decide +kernel

theorem witness_FabricEntryExpires_drain :
    let two := { sweeping fabric .draining with
      prt := { (sweeping fabric .draining).prt with entries := [(1, { fabric with tag := 6 }), (3, fabric)] } }
    two.stateOf 0 = .draining ∧ two.prt.pool = [] ∧ two.entryAt 3 = some fabric ∧ two.liveFabric 0 = 2 ∧
    (two.prt.sweep.map fun w => w.left.find? (fun q => two.expiredAt w.now q)) = some (some 3) ∧
    (sweeping fabric .draining).liveFabric 0 = 1 ∧ two.leaderOf 0 = 0 ∧ (two.slot 0).settings.ringCount = 0 := by
  decide +kernel

theorem witness_OwnEntryExpires :
    let s := (sweeping identityRead .probing).setProbe 0 (some .outstanding)
    s.entryAt 3 = some identityRead ∧ (s.prt.sweep.map fun w => w.left.find? (fun q => s.expiredAt w.now q)) = some (some 3) ∧
    s.prt.pool = [] ∧ (s.slot 0).probe = some .outstanding ∧ (s.slot (s.leaderOf 0)).seq.state = .probing ∧
    (∀ m ∈ s.members (s.leaderOf 0), m ≠ 0 → (s.slot m).probe ≠ some .outstanding) ∧
    (∃ m ∈ (((s.modSlot 0 fun r => { r with settings := { r.settings with join := true } }).setProbe 1
      (some .outstanding)).members 0), m = 1) ∧ s.groupRail 0 = true := by decide +kernel

theorem witness_OwnEntryExpires_waiting :
    let s := (sweeping identityRead .probing).setProbe 0 (some .outstanding)
    ((withSeq (fun q => { q with fixedOutcome := some .probeOnes }) s).slot 0).seq.fixedOutcome = some .probeOnes ∧
    ((withSeq (fun q => { q with flight := .recover, cancelPending := true }) s).slot 0).seq.cancelPending = true := by
  decide +kernel

/-- Slot 0 ONLINE with a decay phase of period 16 from count 0. -/
def decaying (now : Word) : State :=
  { (inState .online).modMeter 0 fun m => { m with score := 20, decay := some ⟨0, 16, 0⟩ } with timebase := now }

theorem witness_DecayTickTaken :
    ((decaying 16).slot 0).meter.decay = some ⟨0, 16, 0⟩ ∧ age (decaying 16).timebase 0 = 16 ∧
    age (decaying 15).timebase 0 = 15 := by decide +kernel

/-- Slot 0 with its alert edges selected. -/
def alerting (e : AlertSelect) (score : Nat) (st : SeqState) : State :=
  (withSettings (fun c => { c with alertSelect := e }) (inState st)).modMeter 0 fun m => { m with score := score }

theorem witness_AlertEdgeCounted :
    ((alerting .both 0 .online).slot 0).lines.alert = false ∧
    (alerting .rising 0 .online).stateOf 0 = .online ∧ (alerting .falling 0 .draining).stateOf 0 = .draining ∧
    (alerting .both 96 .online).warns 0 .alert = true ∧ (alerting .both 95 .online).warns 0 .alert = false ∧
    ((alerting .both 96 .online).slot 0).meter.score + 32 < ((alerting .both 96 .online).slot 0).settings.isolate := by
  decide +kernel

/-- Slot 0 ONLINE at a score that an alert takes to ISOLATE, with one request outstanding. -/
def triggered (p : Policy) : State :=
  withTable [(0, fabric)] [] (withSettings (fun c => { c with policy := p, warn := 0 }) (alerting .rising 224 .online))

/-- A group that waits for no entry, or whose one member waits, with no abort ring, comes to DRAIN plainly. -/
theorem drainsPlainly_of_gates {s : State} (pool : s.prt.pool = [] ∨ s.prt.pool = [.gate 0]) (leads : s.leaderOf 0 = 0)
    (rings : ∀ m, s.leaderOf m = 0 → (s.slot m).settings.ringCount = 0) : s.drainsPlainly 0 := by
  refine ⟨fun c hc => ⟨0, ?_, leads⟩, fun m h => .inl (rings m h)⟩
  rcases pool with pool | pool <;> rw [pool] at hc
  · cases hc
  · exact List.mem_singleton.mp hc

/-- `triggered` with a request held too. -/
def triggeredHeld (p : Policy) : State :=
  let s := (triggered p).modGate 0 fun g => { g with held := some ⟨{ request with tag := 7 }, 0⟩ }
  { s with prt := { s.prt with pool := [.gate 0] } }

theorem witness_ScoreTriggerConsumed :
    (∀ p ∈ ([.observe, .isolate, .recover] : List Policy),
      ((triggered p).slot 0).lines.alert = false ∧ (triggered p).stateOf 0 = .online ∧
      ((triggered p).slot 0).settings.policy = p ∧ ((triggered p).slot 0).meter.isolateArmed = true ∧
      ((triggered p).slot 0).meter.score < 256 ∧
      ((triggered p).slot 0).meter.score + 32 = ((triggered p).slot 0).settings.isolate ∧
      (triggered p).warns 0 .alert = false ∧ (triggered p).liveFabric 0 = 1 ∧
      (withTable [] [] (triggered p)).liveFabric 0 = 0) ∧
    (∀ p, (triggered p).drainsPlainly 0 ∧ (triggeredHeld p).drainsPlainly 0) := by
  refine ⟨by decide +kernel, fun p => ⟨drainsPlainly_of_gates (.inl rfl) rfl ?_, drainsPlainly_of_gates (.inr rfl) rfl ?_⟩⟩
  · revert p; intro p; cases p <;> decide +kernel
  · revert p; intro p; cases p <;> decide +kernel

/-- Slot 0 in DRAINING with a destination and a limit that ends at 16. -/
def draining (d : Destination) : State :=
  withSeq (fun q => { q with destination := some d, flight := .isolate, limit := some ⟨0, 16⟩ }) (inState .draining)

theorem witness_DrainEndsEmpty :
    ((draining .ladder).slot 0).seq.state = .draining ∧ ((draining .ladder).slot 0).seq.cancelPending = false ∧
    (∀ m, (draining .ladder).leaderOf m = 0 → (draining .ladder).liveFabric m = 0) ∧
    (withTable [(0, fabric)] [] (draining .isolated)).liveFabric 0 = 1 ∧
    ((draining .powerOff).slot 0).seq.destination = some .powerOff ∧
    clampLevel ((draining .ladder).groupLock 0) ((draining .ladder).slot 0).seq.startLevel ≤ 2 ∧
    ((withSeq (fun q => { q with cancelPending := true }) (draining .isolated)).slot 0).seq.flight = .isolate := by
  decide +kernel

/-- Slot 0 in DRAINING at the end of its limit, its keys apart, with a start level and a CANCEL that waits or not. -/
def drained (d : Destination) (cancel : Bool) (level : Nat) : State :=
  leaving .draining (fun q => { q with destination := some d, cancelPending := cancel, startLevel := level }) id

theorem witness_DrainLimitFences :
    (∀ d cancel level, (drained d cancel level).KeysApart ∧ (drained d cancel level).onlyGatesWait 0) ∧
    ∀ d ∈ ([.isolated, .powerOff, .ladder] : List Destination), ∀ cancel : Bool, ∀ level ∈ ([1, 2, 3] : List Nat),
      let s := drained d cancel level
      (s.slot 0).seq.state = .draining ∧ dueNow (s.slot 0).seq.limit s.timebase = true ∧
      dueNow (s.slot 0).seq.limit (s.timebase - 1) = false ∧ s.groupRail 0 = true ∧
      (s.slot 0).seq.destination = some d ∧ (s.slot 0).seq.cancelPending = cancel ∧ (s.slot 0).seq.flight ≠ .none ∧
      (∀ m, s.leaderOf m = 0 → (s.slot m).settings.ringCount = 0) ∧ s.liveFabric 0 = 1 :=
  ⟨fun _ _ _ => ⟨(leaving_apart _ _ _).1, (leaving_apart _ _ _).2 0 rfl⟩, by decide +kernel⟩

/-- Slot 0 in a state whose limit ends at 16, at count `now`. -/
def limited (st : SeqState) (now : Word) : State :=
  { withSeq (fun q => { q with limit := some ⟨0, 16⟩, flight := .recover }) (inState st) with timebase := now }

theorem witness_ResetHoldEnds :
    dueNow ((limited .resetting 16).slot 0).seq.limit (limited .resetting 16).timebase = true ∧
    dueNow ((limited .resetting 15).slot 0).seq.limit (limited .resetting 15).timebase = false ∧
    ((limited .resetting 16).slot 0).lines.linkUp = true ∧
    ((withLines (fun n => { n with linkUp := false }) (limited .resetting 16)).slot 0).lines.linkUp = false ∧
    ((withSeq (fun q => { q with cancelPending := true }) (limited .resetting 16)).slot 0).seq.cancelPending = true := by
  decide +kernel

theorem witness_TrainLimitLevelChoice :
    let s := limited .training 16
    dueNow (s.slot 0).seq.limit s.timebase = true ∧ (s.slot 0).seq.cancelPending = false ∧ s.groupRail 0 = true ∧
    (s.slot 0).seq.attempts + 1 < (s.slot 0).settings.attemptsPerLevel ∧
    ¬((withSeq (fun q => { q with attempts := 1 }) s).slot 0).seq.attempts + 1 < (s.slot 0).settings.attemptsPerLevel ∧
    (s.slot 0).seq.level < clampLevel (s.groupLock 0) (s.slot 0).seq.maxLevel ∧
    ¬((withSeq (fun q => { q with level := 3 }) s).slot 0).seq.level < clampLevel (s.groupLock 0) (s.slot 0).seq.maxLevel := by
  decide +kernel

theorem witness_RetryAndProbeLimit :
    let s := (limited .probing 16).setProbe 0 (some (.retryWait ⟨0, 16⟩))
    (s.slot 0).probe = some (.retryWait ⟨0, 16⟩) ∧ (s.slot 0).seq.probeLimitPassed = false ∧
    (⟨0, 16⟩ : Timer).due s.timebase = true ∧ (⟨0, 16⟩ : Timer).due 15 = false ∧ s.prt.entries.length < 96 ∧
    s.prt.pool = [] ∧ dueNow (s.slot 0).seq.limit s.timebase = true ∧
    (probed.slot 0).probe = some .outstanding ∧ probed.members 0 = [0] ∧ s.groupRail 0 = true ∧
    (s.slot 0).seq.cancelPending = false ∧
    (withTable ((List.range 96).map fun k => (k, fabric)) [.probe 0] s).prt.entries.length = 96 := by decide +kernel

/-- Slot 0 in UNPOWERED within a sequence, its discharge dwell over, behind another waiter. -/
def discharged (f : Flight) : State :=
  let s := withSeq (fun q => { q with flight := f, discharge := some ⟨0, 16⟩ }) (inState .unpowered)
  { s with timebase := 16, arb := { s.arb with waiters := [⟨1, 200⟩] } }

theorem witness_DischargeTimerStops :
    dueNow ((discharged .bringUp).slot 0).seq.discharge (discharged .bringUp).timebase = true ∧
    dueNow ((discharged .bringUp).slot 0).seq.discharge 15 = false ∧
    ((discharged .none).slot 0).seq.flight = .none ∧ ((discharged .bringUp).slot 0).seq.state = .unpowered ∧
    (discharged .bringUp).arb.mode = .arrival ∧ (discharged .bringUp).arb.waiters = [⟨1, 200⟩] := by decide +kernel

/-- Slot 0 waits for a grant of an amount. -/
def waiting (n : Nat) : State :=
  { inState .awaitPower with arb := { base.arb with waiters := [⟨0, n⟩] } }

theorem witness_GrantGiven :
    base.arb.waiters = [] ∧ (waiting 129).arb.total < (waiting 129).arb.granted + 129 ∧
    (waiting 128).arb.granted + 128 = (waiting 128).arb.total ∧ (waiting 128).leaderOf 0 = 0 := by decide +kernel

/-- Slots 2, 0 and 1 wait in this order; slot 0 asks for an amount. -/
def several (mode : ArbMode) (n : Nat) : State :=
  { inState .awaitPower with arb := { base.arb with mode := mode, waiters := [⟨2, 129⟩, ⟨0, n⟩, ⟨1, 16⟩] } }

/-- The heads of the two modes: the first waiter, which does not fit before one that would, and the lowest leader. -/
theorem witness_GrantGiven_heads :
    (several .arrival 16).arb.waiters = [] ++ ⟨2, 129⟩ :: [⟨0, 16⟩, ⟨1, 16⟩] ∧
    (several .slotOrder 16).arb.waiters = [⟨2, 129⟩] ++ ⟨0, 16⟩ :: [⟨1, 16⟩] ∧
    (several .slotOrder 16).arb.granted + 16 ≤ (several .slotOrder 16).arb.total ∧
    (several .slotOrder 129).arb.total < (several .slotOrder 129).arb.granted + 129 ∧
    (several .arrival 16).arb.total < (several .arrival 16).arb.granted + 129 ∧
    (∀ i, (several .slotOrder 16).leaderOf i = i) := by decide +kernel

/-- Slot 0 in POWERING under a level-3 ladder, holding a grant. -/
def powering : State :=
  withLines (fun n => { n with risen := true, dwell := some ⟨0, 16⟩ })
    (withSeq (fun q => { q with level := 3, grant := some 16 }) (limited .powering 16))

theorem witness_PowerGoodRises :
    ((inState .online).slot 0).lines.powerGood = true ∧
    ((withLines (fun n => { n with powerGood := false }) (inState .isolated)).slot 0).lines.powerGood = false ∧
    (withLines (fun n => { n with powerGood := false }) (inState .isolated)).stateOf 0 ≠ .powering ∧
    ((withLines (fun n => { n with powerGood := false }) (inState .powering)).slot 0).lines.risen = false := by
  decide +kernel

theorem witness_PowerGoodFalls :
    (powering.slot 0).lines.powerGood = true ∧ (powering.slot 0).seq.state = .powering ∧
    (powering.slot 0).lines.risen = true ∧ (powering.slot 0).seq.grant = some 16 ∧ powering.arb.waiters = [] ∧
    powering.groupRail 0 = true ∧ powering.groupLock 0 = false ∧ (powering.slot 0).seq.level = 3 ∧
    (powering.slot 0).seq.maxLevel = 3 ∧ (powering.slot 0).seq.cancelPending = false ∧
    ((inState .online).slot 0).lines.powerGood = true ∧ (inState .online).engine.queue = [] ∧
    (withSettings (fun c => { c with lock := true }) powering).groupLock 0 = true ∧
    ((inState .vacant).slot 0).seq.state = .vacant := by decide +kernel

/-- For PowerGoodFalls and PresenceLost: a loss while a CANCEL waits, of an order and of an automatic recovery. -/
theorem witness_loss_with_cancel :
    ∀ f ∈ ([.recover, .autoRecover] : List Flight),
      let s := withSeq (fun q => { q with flight := f }) (drained .ladder true 1)
      (s.slot 0).seq.cancelPending = true ∧ (s.slot 0).seq.flight = f ∧ (s.slot 0).lines.powerGood = true ∧
      (s.slot 0).lines.present = true ∧ s.engine.queue = [] ∧ s.arb.waiters = [] := by decide +kernel

/-- For PowerGoodFalls and PresenceLost: a loss in ONLINE and DRAINING, with keys apart and a sequence in flight. -/
theorem witness_loss_with_traffic :
    (∀ st, (leaving st id id).KeysApart ∧ (leaving st id id).onlyGatesWait 0) ∧
    ∀ st ∈ ([.online, .draining] : List SeqState),
      let s := leaving st id id
      (s.slot 0).seq.state = st ∧ (s.slot 0).lines.powerGood = true ∧ (s.slot 0).lines.present = true ∧
      s.regs.ready = true ∧ s.engine.queue = [] ∧ s.arb.waiters = [] ∧ (s.slot 0).seq.flight.isOrder = true ∧
      (s.slot 0).seq.cancelPending = false ∧ s.liveFabric 0 = 1 ∧
      ∀ m, s.leaderOf m = 0 → (s.slot m).settings.ringCount = 0 :=
  ⟨fun _ => ⟨(leaving_apart _ _ _).1, (leaving_apart _ _ _).2 0 rfl⟩, by decide +kernel⟩

theorem witness_PowerGoodLimitEnds :
    dueNow (powering.slot 0).seq.limit powering.timebase = true ∧
    dueNow ((limited .powering 15).slot 0).seq.limit 15 = false ∧ (powering.slot 0).seq.grant = some 16 ∧
    powering.groupLock 0 = false ∧ (withSettings (fun c => { c with lock := true }) powering).groupLock 0 = true ∧
    (powering.slot 0).seq.attempts + 1 < (powering.slot 0).settings.attemptsPerLevel ∧
    powering.groupRail 0 = true ∧ powering.arb.waiters = [] := by decide +kernel

theorem witness_StabilityDwellEnds :
    dueNow (powering.slot 0).lines.dwell powering.timebase = true ∧ dueNow (powering.slot 0).lines.dwell 15 = false ∧
    (∀ m, powering.leaderOf m = 0 → m ≠ 0 → (powering.slot m).lines.dwellEnded = true) ∧
    (∀ m, powering.leaderOf m = 0 → (powering.slot m).lines.powerGood = true) ∧
    ((withLines (fun n => { n with linkUp := false }) powering).slot 0).lines.linkUp = false ∧
    (powering.modSlot 0 fun r => { r with settings := { r.settings with join := true } }).leaderOf 1 = 0 := by
  decide +kernel

theorem witness_LinkComesUp :
    let s := withLines (fun n => { n with linkUp := false }) (inState .training)
    s.regs.ready = true ∧ (s.slot 0).lines.linkUp = false ∧
    ((withLines (fun n => { n with linkDisabled := true }) s).slot 0).lines.linkUp = false ∧
    (s.slot (s.leaderOf 0)).seq.state = .training ∧ (∀ m, s.leaderOf m = 0 → m ≠ 0 → (s.slot m).lines.linkUp = true) ∧
    s.members 0 = [0] := by decide +kernel

/-- Slot 0 ONLINE with its keys apart, under a policy, a WARN threshold and a start level. -/
def linked (p : Policy) (warn level : Nat) : State :=
  leaving .online (fun q => { q with flight := .none })
    fun c => { c with policy := p, warn := warn, startLevel := level }

theorem witness_LinkGoesDown :
    (∀ p warn level, (linked p warn level).KeysApart ∧ (linked p warn level).onlyGatesWait 0) ∧
    ((inState .isolated).slot 0).lines.linkUp = true ∧ ((inState .isolated).slot 0).seq.state = .isolated ∧
    (∀ p ∈ ([.observe, .isolate, .recover] : List Policy), ∀ level ∈ ([1, 3] : List Nat),
      let s := linked p 128 level
      (s.slot 0).lines.linkUp = true ∧ (s.slot 0).seq.state = .online ∧ (s.slot 0).seq.cancelPending = false ∧
      s.groupRail 0 = true ∧ s.regs.run = true ∧ (s.slot 0).seq.allowance ≠ 0 ∧ (s.slot 0).settings.policy = p ∧
      clampLevel (s.groupLock 0) (s.slot 0).settings.startLevel = level ∧ s.liveFabric 0 = 1 ∧
      ∀ m, s.leaderOf m = 0 → (s.slot m).settings.ringCount = 0) ∧
    (linked .recover 255 1).warns 0 .linkDown = true ∧ (linked .recover 256 1).warns 0 .linkDown = false ∧
    ((drained .ladder true 1).slot 0).lines.linkUp = true ∧
    ((drained .ladder true 1).slot 0).seq.destination = some .ladder :=
  ⟨fun _ _ _ => ⟨(leaving_apart _ _ _).1, (leaving_apart _ _ _).2 0 rfl⟩, by decide +kernel⟩

theorem witness_PresenceLost :
    ((inState .online).slot 0).lines.present = true ∧ (inState .online).engine.queue = [] ∧
    (inState .online).arb.waiters = [] ∧ (waiting 16).arb.waiters = [⟨0, 16⟩] ∧
    ((waiting 16).slot 0).seq.state = .awaitPower ∧ ((inState .vacant).slot 0).lines.present = true := by
  decide +kernel

theorem witness_PresenceGained :
    (base.slot 0).lines.present = false ∧ (base.slot 0).seq.state = .vacant ∧
    (∀ m, base.leaderOf m = 0 → m ≠ 0 → (base.slot m).lines.present = true) ∧
    (base.modSlot 0 fun r => { r with settings := { r.settings with join := true } }).leaderOf 1 = 0 ∧
    ((withLines (fun n => { n with present := false }) (inState .online)).slot 0).seq.state ≠ .vacant := by
  decide +kernel

theorem witness_BlinkToggles :
    ((withLines (fun n => { n with indicator := ⟨.locateBlink, false, 0⟩ }) base).slot 0).lines.indicator.pattern =
      .locateBlink ∧
    age 250000 0 = 250000 ∧ age 249999 0 < 250000 ∧ (base.slot 0).lines.indicator.pattern = .off := by decide +kernel

/-- Slot 0 in RESTORING with a paused job that stands at an END item. -/
def paused : State :=
  let s := (inState .restoring).storeWord 0x3000 0xF0000000
  { s with timebase := 16, engine := { s.engine with paused := [⟨{ job with item := none }, ⟨0, 16⟩⟩] } }

theorem witness_PauseEnds :
    paused.engine.paused.find? (fun p => p.job.slot == 0) = some ⟨{ job with item := none }, ⟨0, 16⟩⟩ ∧
    (⟨0, 16⟩ : Timer).due paused.timebase = true ∧ (⟨0, 16⟩ : Timer).due 15 = false ∧ paused.engine.phase = .idle ∧
    paused.engine.queue = [] ∧ (paused.readWord 0x3000).extractLsb' 28 4 = 15 ∧ paused.members 0 = [0] ∧
    (paused.slot 0).seq.state = .restoring ∧ (paused.slot 0).seq.cancelPending = false := by decide +kernel

/-- Slot 0's restore write outstanding. -/
def writing : State :=
  let s := withTable [(0, ⟨0, .restore, .configWrite 8, 0xFFFF, 1023, 1, 4, 0, 0, []⟩)] [] (inState .restoring)
  { s with engine := { s.engine with queue := [job], phase := .writeOut } }

/-- Where no request is held, the keys stand apart when those of the table do. -/
theorem keysApart_of_none_held {s : State} (held : ∀ i, (s.slot i).gate.held = none)
    (table : s.prt.entries.Pairwise (fun x y => x.1 < y.1) ∧
      s.prt.entries.Pairwise (fun x y => x.2.origin = .fabric → y.2.origin = .fabric → x.2.key ≠ y.2.key) ∧
      s.prt.retired.Nodup ∧ ∀ x ∈ s.prt.entries, x.2.origin = .fabric → x.2.key ∉ s.prt.retired) : s.KeysApart :=
  ⟨table.1, table.2.1, table.2.2.1, table.2.2.2, fun i h e => by rw [held i] at e; cases e⟩

/-- `probed` in a full table, a claim of the group's and a gate waiting behind its read. -/
def probedFull : State :=
  let s := withTable (almostFull ++ [(95, identityRead)]) [.probe 1, .gate 2] probed
  ((s.modSlot 0 fun r => { r with settings := { r.settings with join := true } }).setProbe 1 (some .waitingEntry)).modGate 2
    fun g => { g with held := some ⟨request, 0⟩ }

/-- For PowerGoodFalls and PresenceLost: a loss in PROBING and in RESTORING, the group's own request out, with nobody
waiting and with another slot's claim behind the group's. -/
theorem witness_loss_gives_up :
    (probed.KeysApart ∧ probed.givesUpPlainly 0 ∧ probed.ownRequests 0 = [(.probe, 0)]) ∧
    (writing.KeysApart ∧ writing.givesUpPlainly 0 ∧ writing.ownRequests 0 = [(.restore, 0)]) ∧
    probedFull.givesUpPlainly 0 ∧ (probedFull.withoutOwn 0).prt.pool = [.gate 2] := by
  refine ⟨⟨keysApart_of_none_held ?_ ?_, ?_, ?_⟩, ⟨keysApart_of_none_held ?_ ?_, ?_, ?_⟩, ?_, ?_⟩ <;>
    (try unfold State.givesUpPlainly) <;> decide +kernel

theorem witness_RestoreItemsAndWrites_writes :
    writing.gateState job.slot = .privatePath ∧ writing.engine.queue = job :: [] ∧ writing.engine.phase = .writeOut ∧
    writing.engine.mode = .sequential ∧ job.removalPending = false ∧ job.item = some (.dataItem 2 4) ∧
    (∀ l ∈ [writing.prt.entries, writing.prt.entries ++ [(2, fabric)]],
      (withTable l [] writing).findEntry (fun x => x.origin != .fabric && (x.slot == 0 && x.requester == 0xFFFF && x.tag == 1023))
        = some (0, ⟨0, .restore, .configWrite 8, 0xFFFF, 1023, 1, 4, 0, 0, []⟩)) ∧ writing.prt.pool = [] ∧
    job.offset + 4 ≤ 4096 ∧ (8 + 4) + 4 = job.length ∧ job.position + 8 + 4 ≤ job.length ∧
    ((writing.storeWord 0x300C 0x40000001).readWord 0x300C).extractLsb' 28 4 = 4 ∧
    ((writing.storeWord 0x3008 0x40000001).readWord 0x3008).extractLsb' 28 4 = 4 ∧
    writing.engine.burst + 1 < writing.engine.burstLength ∧
    { writing with engine := { writing.engine with burst := 7 } }.engine.burstLength = 7 + 1 ∧
    (writing.slot 0).seq.cancelPending = false ∧ writing.groupRail 0 = true ∧ writing.engine.paused = [] := by
  decide +kernel

/-- In ROTATE with a burst that the write spends: two queued jobs, each within a DATA item, and a job alone. -/
theorem witness_RestoreItemsAndWrites_rotate :
    let e : Engine := { writing.engine with mode := .rotate, burst := 7, burstLength := 8 }
    let two : State := { writing with engine := { e with queue := [job, { job with slot := 1, base := 0x4000 }] } }
    two.engine.mode = .rotate ∧ min (two.engine.burst + 1) 4294967295 = two.engine.burstLength ∧
    (two.engine.queue.map fun j => j.slot) = [0, 1] ∧
    (two.engine.queue.map fun j => j.item) = [some (.dataItem 2 4), some (.dataItem 2 4)] ∧
    0x1900 ≤ job.base ∧ 0x4000 + 4 + 4 ≤ 0x10000 ∧ two.gateState 0 = .privatePath ∧
    { writing with engine := e }.engine.queue = [job] := by decide +kernel

theorem witness_RestoreItemsAndWrites_removal :
    let s := withSeq (fun q => { q with flight := .recover, cancelPending := true })
      { writing with engine := { writing.engine with queue := [{ job with removalPending := true }] } }
    (s.engine.queue.map fun j => (j.slot, j.removalPending)) = [(0, true)] ∧ (s.slot 0).seq.cancelPending = true ∧
    (s.slot 0).seq.flight ≠ .none ∧ s.engine.paused = [] ∧ s.gateState 0 = .privatePath ∧ s.prt.entries.length = 1 := by
  decide +kernel

/-- The paused job of `paused` before a word and the one behind it. -/
def atItem (w v : Word) : State := (paused.storeWord 0x3000 w).storeWord 0x3004 v

theorem witness_RestoreItemsAndWrites_items :
    (atItem 0x10000002 1).readWord 0x3000 = 0x10000002 ∧ (atItem 0x20000000 1).readWord 0x3000 = 0x20000000 ∧
    (atItem 0x30000010 0x40000001).readWord 0x3004 = 0x40000001 ∧ (atItem 0x50000000 1).readWord 0x3000 = 0x50000000 ∧
    4 + 4 * 2 ≤ job.length ∧ job.length < 4 + 4 * 256 ∧ (atItem 0x50000000 1).engine = paused.engine ∧
    paused.prt.entries.length < 96 ∧ paused.prt.pool = [] ∧ (paused.slot 0).seq.cancelPending = false := by
  decide +kernel

theorem witness_TakingAnOrder :
    let s := ordered 0 .bringUp base
    s.regs.ready = true ∧ s.regs.run = true ∧ s.regs.attention.getLsbD 0 = true ∧ Memory.wf s.mem = true ∧
    (s.readWord (slotBase 0 + 0x40)).toNat = 2 ∧ base.regs.attention.getLsbD 0 = false ∧
    (({ s with mem := [] }).readWord (slotBase 0 + 0x40)) = 0 ∧
    ((putWord 0x140 11 s).readWord (slotBase 0 + 0x40)).toNat = 11 ∧
    ((putWord 0x10 16 base).readWord (recordBase 8 + orderOffset 8)).toNat = 16 := by decide +kernel

/-- For every statement about an order: each order presented at the record of a leader at rest. -/
theorem witness_presents :
    ∀ o ∈ ([.configure, .bringUp, .isolate, .resume, .recover, .powerDown, .cancel, .refill, .locate, .listPending] : List Order),
      let s := ordered 0 o base
      s.regs.ready = true ∧ s.regs.run = true ∧ s.regs.attention.getLsbD (0 : Slot).val = true ∧
      (s.readWord (slotBase 0 + 0x40)).toNat = o.code ∧ Memory.wf s.mem = true ∧ s.leaderOf 0 = 0 ∧
      (s.slot 0).seq.flight = .none ∧ (s.slot 0).seq.cancelPending = false := by decide +kernel

/-- For the ends of an order within an automatic sequence: each such state, with the order presented. -/
theorem witness_admits :
    ∀ o ∈ ([.bringUp, .isolate, .resume, .recover, .powerDown] : List Order),
      ∀ st ∈ ([.unpowered, .awaitPower, .powering, .resetting, .training, .probing, .restoring, .draining] : List SeqState),
        let s := ordered 0 o (withSeq (fun q => { q with flight := .autoRecover }) (inState st))
        s.leaderOf 0 = 0 ∧ (s.slot 0).seq.flight.isOrder = false ∧ (s.slot 0).seq.flight ≠ .none ∧
        (s.slot 0).seq.state = st ∧ (s.readWord (slotBase 0 + 0x40)).toNat = o.code := by decide +kernel

/-- For ISOLATE, RECOVER and POWER_DOWN: an order presented ONLINE with a request held, and with nothing to drain. -/
theorem witness_drains_at_once (o : Order) :
    let s := ordered 0 o (leaving .online (fun q => { q with flight := .none }) id)
    (s.slot 0).seq.state = .online ∧ (s.slot 0).seq.flight = .none ∧ ((s.slot 0).gate.held.map fun h => h.req.tag) = some 7 ∧
    s.drainsPlainly 0 ∧ s.liveFabric 0 = 1 ∧ (withTable [] [] (ordered 0 o (inState .online))).liveFabric 0 = 0 ∧
    (withTable [] [] (ordered 0 o (inState .online))).drainsPlainly 0 := by
  refine ⟨rfl, rfl, rfl, drainsPlainly_of_gates (.inr rfl) rfl ?_, rfl, rfl, drainsPlainly_of_gates (.inl rfl) rfl ?_⟩
  · cases o <;> decide +kernel
  · cases o <;> decide +kernel

theorem witness_OrdersRefused :
    (base.modSlot 0 fun r => { r with settings := { r.settings with join := true } }).leaderOf 1 ≠ 1 ∧
    ((limited .training 16).slot 0).seq.flight.isOrder = true := by decide +kernel

/-- The words of a settings area that passes every check, with an abort ring of count 4. -/
def goodArea (s : State) : State :=
  s |> putWord 0x100 0x00000100 |> putWord 0x104 0x31021001 |> putWord 0x134 0x2000 |> putWord 0x138 4

/-- The settings of a slot changed. -/
def withSettingsOf (i : Slot) (f : Settings → Settings) (s : State) : State :=
  s.modSlot i fun r => { r with settings := f r.settings }

/-- CONFIGURE at slot 0 with an area that joins it to slot 1, which is at rest. -/
def joining (allotment : Nat) : State :=
  withSettingsOf 1 (fun c => { c with allotment := allotment })
    (putWord 0x100 0x00000101 (goodArea (ordered 0 .configure (inState .isolated))))

theorem witness_ConfigureLatches :
    let s := goodArea (ordered 0 .configure (inState .isolated))
    s.firstBadWord 0 = none ∧ (ordered 0 .configure (inState .isolated)).firstBadWord 0 = some 4 ∧
    s.members 0 = [0] ∧ (s.slot 0).settings.join = false ∧ (s.settingsOf 0).join = false ∧
    (s.slot 7).settings.join = false ∧ (∀ j, s.groupAllotment (s.leaderOf j) ≤ s.arb.total) ∧
    (s.settingsOf 0).allotment = 16 ∧ (withSettings (fun c => { c with allotment := 64 }) s).arb.total = 128 ∧
    { s with arb := { s.arb with total := 15 } }.arb.total < (s.settingsOf 0).allotment ∧
    (∀ j, j ≠ 0 → { s with arb := { s.arb with total := 16 } }.groupAllotment (s.leaderOf j) ≤ 16) ∧
    ((inState .online).slot 0).seq.state = .online := by decide +kernel

theorem witness_ConfigureLatches_recovery :
    let at_ (st : SeqState) : State := goodArea (ordered 0 .configure (withSeq (fun q => { q with flight := .autoRecover }) (inState st)))
    ((at_ .unpowered).slot 0).seq.flight = .autoRecover ∧ ((at_ .unpowered).slot 0).seq.state = .unpowered ∧
    (at_ .unpowered).firstBadWord 0 = none ∧ ((at_ .unpowered).slot 0).seq.flight.isOrder = false ∧
    ((at_ .powering).slot 0).seq.state = .powering := by decide +kernel

theorem witness_ConfigureLatches_slot7 :
    let s := ordered 7 .configure base |> putWord 0xF00 0x00000101 |> putWord 0xF04 0x31021001
    s.firstBadWord 7 = none ∧ (s.settingsOf 7).join = true ∧ s.members 7 = [7] ∧ (s.slot 7).settings.join = false ∧
    (s.slot 7).seq.state = .vacant ∧ (s.slot 7).seq.flight = .none ∧ s.regs.attention.getLsbD 7 = true ∧
    (s.readWord (slotBase 7 + 0x40)).toNat = Order.configure.code := by decide +kernel

theorem witness_ConfigureLatches_join :
    (joining 112).firstBadWord 0 = none ∧ ((joining 112).settingsOf 0).join = true ∧ (joining 112).members 1 = [1] ∧
    ((joining 112).settingsOf 0).allotment + ((joining 112).slot 1).settings.allotment = (joining 112).arb.total ∧
    (joining 113).arb.total < ((joining 113).settingsOf 0).allotment + ((joining 113).slot 1).settings.allotment ∧
    (∀ j, j ≠ 0 → j ≠ 1 → (joining 112).groupAllotment ((joining 112).leaderOf j) ≤ 128) ∧
    ((joining 112).slot 1).seq.state = .vacant ∧ ((joining 112).slot 1).seq.flight = .none ∧
    ((joining 112).slot 0).lines.rail = true ∧ ((joining 112).settingsOf 0).lock = false ∧
    ((withSettingsOf 1 (fun c => { c with lock := true }) (joining 112)).slot 1).settings.lock = true ∧
    (((joining 112).modSeq 1 fun q => { q with state := .online }).slot 1).seq.state = .online := by decide +kernel

/-- CONFIGURE at slot 0, which leads a group of two at rest, with `flags` as the flags word of its area. -/
def regrouping (flags : Word) : State :=
  withSettingsOf 0 (fun c => { c with join := true })
    (putWord 0x100 flags (goodArea (ordered 0 .configure (inState .isolated))) |> putWord 0x300 0x00000100
      |> putWord 0x304 0x31021001)

theorem witness_ConfigureLatches_split :
    let s := regrouping 0x00000100
    let u := s.underSettings fun m => if m = 0 ∨ m = 1 then s.settingsOf m else (s.slot m).settings
    s.members 0 = [0, 1] ∧ s.firstBadWord 0 = none ∧ s.firstBadWord 1 = none ∧ u.members 0 = [0] ∧ u.members 1 = [1] ∧
    s.reforms u 0 = true ∧ s.reforms u 1 = true ∧ s.reforms u 2 = false ∧ (s.slot 0).seq.state = .isolated ∧
    (s.slot 1).seq.state = .vacant ∧ (s.slot 1).seq.flight = .none ∧ (∀ l, u.groupAllotment l ≤ s.arb.total) ∧
    u.groupRail 0 = true ∧ u.groupLock 0 = false ∧
    (putWord 0x100 0x00000102 s |>.settingsOf 0).lock = true := by decide +kernel

theorem witness_ConfigureLatches_group :
    let s := regrouping 0x00000101
    let u := s.underSettings fun m => if m = 0 ∨ m = 1 then s.settingsOf m else (s.slot m).settings
    s.members 0 = [0, 1] ∧ u.members 0 = [0, 1] ∧ (∀ l, s.reforms u l = false) ∧ s.firstBadWord 0 = none ∧
    s.firstBadWord 1 = none ∧ (putWord 0x304 0 s).firstBadWord 0 = none ∧ (putWord 0x304 0 s).firstBadWord 1 = some 4 ∧
    u.groupAllotment 0 = 32 := by decide +kernel

theorem witness_BringUpOrder :
    let off (st : SeqState) : State :=
      ordered 0 .bringUp (withLines (fun n => { n with rail := false, powerGood := false }) (inState st))
    (∀ st ∈ ([.unpowered, .failed] : List SeqState),
      ((off st).slot 0).seq.state = st ∧ (off st).groupRail 0 = false ∧ ((off st).slot 0).seq.discharge = none ∧
      (off st).arb.waiters = [] ∧ (off st).arb.granted + 16 ≤ (off st).arb.total) ∧
    ((withSeq (fun q => { q with discharge := some ⟨0, 16⟩ }) (off .failed)).slot 0).seq.discharge ≠ none ∧
    (base.slot 0).seq.state = .vacant ∧ ((inState .online).slot 0).seq.state = .online ∧
    (ordered 0 .bringUp (inState .failed)).groupRail 0 = true := by decide +kernel

theorem witness_IsolateOrder :
    let s := withTable [(0, fabric)] [] (ordered 0 .isolate (inState .online))
    (s.slot 0).seq.state = .online ∧ s.prt.pool = [] ∧ (∀ m, s.leaderOf m = 0 → (s.slot m).gate.held = none) ∧
    s.liveFabric 0 = 1 ∧ ((inState .isolated).slot 0).seq.state = .isolated := by decide +kernel

theorem witness_PowerDownOrder :
    let s := ordered 0 .powerDown (inState .isolated)
    let busy := withTable [(0, fabric)] [] (ordered 0 .powerDown (inState .online))
    (s.slot 0).seq.state = .isolated ∧ s.groupLock 0 = false ∧
    (withSettings (fun c => { c with lock := true }) s).groupLock 0 = true ∧
    ((inState .unpowered).slot 0).seq.state = .unpowered ∧ ((inState .training).slot 0).seq.state = .training ∧
    busy.groupLock 0 = false ∧ busy.liveFabric 0 = 1 ∧ busy.prt.pool = [] ∧ (busy.slot 0).gate.held = none := by
  decide +kernel

theorem witness_RefillAndLocate :
    let s := putWord 0x144 16 (ordered 0 .refill (limited .training 16))
    (s.readWord (slotBase 0 + 0x44)).toNat = 16 ∧ s.leaderOf 0 = 0 ∧ s.quietAt 0 = false ∧
    (ordered 0 .locate base).quietAt 0 = true := by decide +kernel

theorem witness_ResumeOrder :
    ((inState .isolated).slot 0).seq.state = .isolated ∧
    (∀ m, (inState .isolated).leaderOf m = 0 →
      ((inState .isolated).slot m).lines.linkUp = true ∧ ((inState .isolated).slot m).lines.resetAsserted = false ∧
      ((inState .isolated).slot m).lines.rail = true) ∧
    ((withLines (fun n => { n with linkUp := false }) (inState .isolated)).slot 0).lines.linkUp = false := by
  decide +kernel

theorem witness_RecoverOrder :
    let s := ordered 0 .recover (inState .isolated)
    let busy := withTable [(0, fabric)] [] (ordered 0 .recover (inState .online))
    (s.readWord (slotBase 0 + 0x44)).toNat = 0 ∧ (s.slot 0).settings.startLevel ≤ (s.slot 0).settings.maxLevel ∧
    clampLevel (s.groupLock 0) (s.slot 0).settings.startLevel ≤ 2 ∧
    ((putWord 0x144 4 s).readWord (slotBase 0 + 0x44)).toNat = 4 ∧ busy.liveFabric 0 = 1 ∧ busy.prt.pool = [] ∧
    ((withSeq (fun q => { q with railKept := true }) (inState .failed)).slot 0).seq.railKept = true ∧
    ((inState .failed).slot 0).seq.railKept = false ∧ (inState .failed).groupLock 0 = false ∧
    (inState .failed).groupRail 0 = true ∧
    (withSettings (fun c => { c with lock := true }) (inState .failed)).groupLock 0 = true := by decide +kernel

theorem witness_CancelOrder :
    (∀ st ∈ ([.draining, .resetting, .training, .unpowered, .awaitPower, .powering, .probing, .restoring] : List SeqState),
      ((limited st 16).slot 0).seq.flight.order = some .recover ∧ ((limited st 16).slot 0).seq.cancelPending = false ∧
      ((limited st 16).slot 0).seq.state = st ∧ (limited st 16).prt.pool = [] ∧ (limited st 16).arb.waiters = []) ∧
    ((withSeq (fun q => { q with cancelPending := true }) (limited .draining 16)).slot 0).seq.cancelPending = true ∧
    (waiting 128).arb.waiters = [⟨0, 128⟩] ∧ (powering.slot 0).seq.grant = some 16 ∧
    (probed.slot 0).probe = some .outstanding ∧ (∀ m, ((limited .probing 16).slot m).probe ≠ some .outstanding) ∧
    paused.engine.phase = .idle ∧ paused.engine.queue = [] ∧ (paused.engine.paused.map fun p => p.job.slot) = [0] ∧
    writing.engine.phase = .writeOut ∧ (writing.engine.queue.map fun j => j.slot) = [0] := by decide +kernel

theorem witness_CancelOrder_automatic :
    ∀ f ∈ ([.autoRecover, .autoIsolate] : List Flight),
      let s := ordered 0 .cancel (withSeq (fun q => { q with flight := f }) (limited .training 16))
      (s.slot 0).seq.flight.isOrder = false ∧ (s.slot 0).seq.flight ≠ .none ∧ (s.slot 0).seq.cancelPending = false ∧
      (s.readWord (slotBase 0 + 0x40)).toNat = Order.cancel.code ∧ s.leaderOf 0 = 0 := by decide +kernel

theorem witness_ListPendingSnapshot :
    (∀ k ∈ ([0, 1, 6, 7] : List Nat),
      ((withTable ((List.range k).map fun n => (n, fabric)) [] (ordered 0 .listPending (inState .online))).prt.entries.filter
        (fun x => x.2.slot == 0)).length = k) := by decide +kernel

/-- A SET_COMMON presented at the common record, with a settings word and a granted sum. -/
def common (w : Word) (granted : Nat) : State :=
  { putWord 0 w (putWord 0x10 16 base) with
    regs := { base.regs with attention := 0x100 }, arb := { base.arb with granted := granted } }

theorem witness_SetCommonOrder :
    let s := common 0x08000080 0
    Memory.wf s.mem = true ∧ s.regs.ready = true ∧ s.regs.run = true ∧ s.regs.attention.getLsbD 8 = true ∧
    (s.readWord 0x10).toNat = 16 ∧ s.arb.waiters = [] := by decide +kernel

/-- BAD_SETTING of the word alone: total 0, modes of 2, burst lengths of 0 and 65; 1, 1, 1 and 64 pass. -/
theorem witness_SetCommonOrder_word :
    ((common 0x08000000 0).readWord 0).extractLsb' 0 8 = 0 ∧ ((common 0x08000280 0).readWord 0).extractLsb' 8 8 = 2 ∧
    ((common 0x08020080 0).readWord 0).extractLsb' 16 8 = 2 ∧ ((common 0x00000080 0).readWord 0).extractLsb' 24 8 = 0 ∧
    ((common 0x41000080 0).readWord 0).extractLsb' 24 8 = 65 ∧
    (common 0x40010101 0).readWord 0 = 0x40010101 := by decide +kernel

/-- BAD_SETTING of a total one below a group's allotment sum of 16, BUSY of one below the granted sum of 33. -/
theorem witness_SetCommonOrder_total :
    ((common 0x0800000F 0).readWord 0).extractLsb' 0 8 = 15 ∧ ((common 0x08000010 0).readWord 0).extractLsb' 0 8 = 16 ∧
    (∀ i, (common 0x0800000F 0).groupAllotment ((common 0x0800000F 0).leaderOf i) = 16) ∧
    ((common 0x08000020 33).readWord 0).extractLsb' 0 8 = 32 ∧ (common 0x08000020 33).arb.granted = 32 + 1 ∧
    ((common 0x08000021 33).readWord 0).extractLsb' 0 8 = 33 := by decide +kernel

/-- R126, Table 9-8: what SET_COMMON leaves at 0x020 on either side of each boundary: OK 2, BUSY 3, BAD_SETTING 4. -/
theorem test_set_common_boundaries :
    (after .setCommon (common 0x40010121 33)).readWord 0x20 = 0x00100002 ∧
    (after .setCommon (common 0x08000020 33)).readWord 0x20 = 0x00100003 ∧
    (after .setCommon (common 0x0800000F 0)).readWord 0x20 = 0x00100004 ∧
    (after .setCommon (common 0x41000080 0)).readWord 0x20 = 0x00100004 := by decide +kernel

/-- Values of both kinds on either side of READY. -/
theorem witness_ControlRegisterWritten :
    base.regs.ready = true ∧ State.reset.regs.ready = false ∧ (0 : Word).getLsbD 2 = false ∧
    (3 : Word).getLsbD 2 = false ∧ (4 : Word).getLsbD 2 = true ∧ (0xFFFFFFFF : Word).getLsbD 2 = true := by decide +kernel

theorem witness_HostRegisterCommands :
    ((0 : Half) - (0xFF80 : Word).setWidth 16).toNat = 128 ∧ 128 < ((0 : Half) - (0xFF7F : Word).setWidth 16).toNat ∧
    State.reset.regs.ready = false ∧ base.regs.ready = true := by decide +kernel

theorem witness_PowerOnResetAndReady :
    State.reset.regs.ready = false ∧ State.reset.regs.autostart = false ∧ Memory.wf State.reset.mem = true ∧
    base.regs.ready = true ∧
    ∀ s : State, exec (.powerOnReset ⟨1, 0, 0, true⟩) (after (.powerOnReset ⟨1, 0, 0, true⟩) s) =
      .next (after (.powerOnReset ⟨1, 0, 0, true⟩) s) :=
  ⟨by decide, by decide, by decide, by decide, fun _ => rfl⟩

/-! ### Single commands -/

/-- R7, R22, Table 2-2: a read of 2 dwords owes 8 bytes and takes position 0. -/
theorem test_host_request_takes_position_0 :
    (after (.hostNonPostedRequest 0 request) (inState .online)).prt.entries = [(0, fabric)] := by decide +kernel

/-- R10, Table 1-5: outside OPEN the default answer style ERROR answers ABORT with byte count 8 and no data. -/
theorem test_host_request_fenced_is_answered_abort :
    ((after (.hostNonPostedRequest 0 request) base).slot 0).hostOut = [.completion ⟨0x0100, 5, .abort, 8, []⟩] := by
  decide +kernel

/-- R11, Table 9-5: a discarded posted write is counted at 0x074 of the slot's record. -/
theorem test_posted_write_counted :
    (after (.hostPostedWrite 0 ⟨.memoryWrite, 1, 2, 0, 1, [1, 2, 3, 4]⟩) base).readWord 0x174 = 1 := by decide +kernel

/-- R21: a count that has stopped at 4294967295 leaves what a host store put in its field. -/
theorem test_stopped_count_leaves_its_field :
    (after (.hostPostedWrite 0 ⟨.memoryWrite, 1, 2, 0, 1, [1, 2, 3, 4]⟩) ((atBounds.modSeq 0 fun q =>
      { q with state := .isolated }).storeWord 0x174 5)).readWord 0x174 = 5 := by decide +kernel

/-- R12, R32: 4 of 8 bytes leave 4 owed. -/
theorem test_completion_in_part :
    ((after (.cardCompletion 0 ⟨0x0100, 5, .success, 4, []⟩) (withTable [(0, fabric)] [] (inState .online))).entryAt 0).map
      (fun e => e.owed) = some 4 := by decide +kernel

/-- R33: more than the bytes owed ends the entry as malformed, and the host gets a stand-in. -/
theorem test_completion_malformed :
    ((after (.cardCompletion 0 ⟨0x0100, 5, .success, 9, []⟩) (withTable [(0, fabric)] [] (inState .online))).slot 0).hostOut =
      [.completion ⟨0x0100, 5, .abort, 8, []⟩] := by decide +kernel

/-- R15: in DRAIN a card read of 2 dwords is answered UNSUPPORTED with byte count 8. -/
theorem test_card_read_in_drain :
    ((after (.cardOriginatedRequest 0 ⟨.memoryRead, 7, 9, 0, 2, []⟩) (inState .draining)).slot 0).cardOut =
      [.completion ⟨7, 9, .unsupported, 8, []⟩] := by decide +kernel

/-- R16, Table 9-5: a discarded host completion is counted at 0x078. -/
theorem test_host_completion_counted :
    (after (.hostCompletionTowardCard 0 ⟨7, 9, .success, 4, []⟩) (inState .isolated)).readWord 0x178 = 1 := by
  decide +kernel

/-- R29, R25: with 96 live entries the head is not served. -/
theorem test_pool_head_waits_for_a_position :
    (after .poolHeadServed (withTable ((List.range 96).map fun k => (k, fabric)) [.probe 0] (inState .probing))).prt.pool =
      [.probe 0] := by decide +kernel

/-- R43, Table 3-4: an expiry adds the TIMEOUT weight of 64 to the score. -/
theorem test_expiry_scores_timeout :
    ((after (.fabricEntryExpiry 3) (sweeping fabric .online)).slot 0).meter.score = 64 := by decide +kernel

/-- R44: the expiry of a probe read fails the attempt with the cause PROBE_EXPIRED. -/
theorem test_probe_expiry_repeats_the_level :
    (((after (.probeRestoreEntryExpiry 3)
      (withSeq (fun q => { q with level := 1 }) ((sweeping identityRead .probing).setProbe 0 (some .outstanding)))).slot 0).seq.cause)
      = .probeExpired := by decide +kernel

/-- R59: the default decay step of 8 takes 20 to 12. -/
theorem test_decay_step : ((after (.decayTick 0) (decaying 16)).slot 0).meter.score = 12 := by decide +kernel

/-- R81: a drain that is empty ends in ISOLATED with cause SEQUENCE. -/
theorem test_drain_ends :
    ((after (.drainEmpty 0) (draining .isolated)).slot 0).seq.cause = .sequence := by decide +kernel

/-- R81: the end of the drain limit has cause DRAIN_EXPIRED. -/
theorem test_drain_limit :
    ((after (.drainLimitExpiry 0) { withTable [(0, fabric)] [] (draining .isolated) with timebase := 16 }).slot 0).seq.cause
      = .drainExpired := by decide +kernel

/-- R78: the power-off steps that follow a drain have cause SEQUENCE, also after the drain limit. -/
theorem test_power_off_after_a_drain :
    ((after (.drainLimitExpiry 0) { draining .powerOff with timebase := 16 }).slot 0).seq.cause = .sequence := by
  decide +kernel

/-- R96: LINK_UP sets the flag of a disabled link too. -/
theorem test_link_up_while_disabled :
    ((after (.linkUp 0) (withLines (fun n => { n with linkUp := false, linkDisabled := true }) (inState .resetting))).slot
      0).lines.linkUp = true := by decide +kernel

/-- R129, R88: with the link up a reset hold ends in PROBING. -/
theorem test_reset_hold_end :
    ((after (.resetHoldEnd 0) (limited .resetting 16)).slot 0).seq.state = .probing := by decide +kernel

/-- R84: with two attempts per level the first failure uses one. -/
theorem test_train_limit : ((after (.trainLimitExpiry 0) (limited .training 16)).slot 0).seq.attempts = 1 := by
  decide +kernel

/-- R123, Table 9-7: a grant of 128 stands in the low byte of 0x028. -/
theorem test_grant_written : (after .grant (waiting 128)).readWord 0x28 = 128 := by decide +kernel

/-- R116: the rise of power-good in POWERING enables the reference clock. -/
theorem test_power_good_rise :
    ((after (.powerGoodRise 0) (withLines (fun n => { n with powerGood := false, clock := false }) (inState .powering))).slot
      0).lines.clock = true := by decide +kernel

/-- R97, Table 9-8: a rail fault posts RAIL_FAULT, kind 7 with code 19. -/
theorem test_rail_fault_notice : (after (.powerGoodFall 0) (inState .online)).readWord 0x1100 = 0x00130007 := by
  decide +kernel

/-- R47, R29, R30: a rail fault frees the group's PROBE entry, withdraws its claim, and the freed position goes to the
gate behind it. -/
theorem test_rail_fault_frees_the_probe_entry :
    (after (.powerGoodFall 0) probedFull).prt.pool = [] ∧
    ((after (.powerGoodFall 0) probedFull).prt.entries.getLast?.map fun x => (x.1, x.2.origin, x.2.slot)) =
      some (95, .fabric, 2) := by decide +kernel

/-- R98 step 4, R47: a presence loss frees the RESTORE entry of a write that is out. -/
theorem test_presence_loss_frees_the_restore_entry : (after (.presenceLoss 0) writing).prt.entries = [] := by
  decide +kernel

/-- R116, R41: a failure in POWERING that repeats level 3 purges the group's retired tags. -/
theorem test_powering_failure_purges :
    (after (.powerGoodFall 0)
      { powering with prt := { powering.prt with retired := [⟨0, 1, 1⟩, ⟨2, 1, 1⟩] } }).prt.retired = [⟨2, 1, 1⟩] := by
  decide +kernel

/-- R101: behind a rail fault's notice and the stopped order's, a waiting CANCEL posts its own ORDER_DONE, code 7. -/
theorem test_rail_fault_ends_a_cancel :
    (after (.powerGoodFall 0) (drained .ladder true 1)).readWord 0x1120 = 0x00070001 := by decide +kernel

/-- R117: the stability dwell's end returns the grant. -/
theorem test_stability_returns_the_grant :
    (after (.stabilityDwellEnd 0) { powering with arb := { powering.arb with granted := 16 } }).arb.granted = 0 := by
  decide +kernel

/-- R57, R65: under the default policy ISOLATE a LINK_DOWN in ONLINE isolates and adds 255. -/
theorem test_link_down_isolates :
    (after (.linkDown 0) (inState .online)).stateOf 0 = .isolated ∧
    ((after (.linkDown 0) (inState .online)).slot 0).meter.score = 255 := by decide +kernel

/-- R98, Table 9-8: CARD_REMOVED, kind 6 with code 2. -/
theorem test_card_removed_notice : (after (.presenceLoss 0) (inState .isolated)).readWord 0x1100 = 0x00020006 := by
  decide +kernel

/-- R99, Table 9-8: CARD_ARRIVED, kind 5 with code 1. -/
theorem test_card_arrived_notice : (after (.presenceGain 0) base).readWord 0x1100 = 0x00010005 := by decide +kernel

/-- R138, Table 7-2: a locate blink is on for 1,000 ms. -/
theorem test_blink :
    ((after (.indicatorBlinkToggle 0) { withLines (fun n => { n with indicator := ⟨.locateBlink, true, 0⟩ }) base with
      timebase := 1000000 }).slot 0).lines.indicator.lit = false := by decide +kernel

/-- R154: the END of a job of a group of one brings the group ONLINE. -/
theorem test_pause_end_reaches_end : (after (.pauseEnd 0) paused).stateOf 0 = .online := by decide +kernel

/-- R159: an unknown code is reported BAD_ORDER, result 5, in word 1 of the notice. -/
theorem test_unknown_order :
    (after (.unknownOrder 0) (putWord 0x140 11 (ordered 0 .bringUp base))).readWord 0x1104 = 5 := by decide +kernel

/-- R161: the default allotment word 0 of an empty area fails at 0x04. -/
theorem test_configure_bad_setting :
    (after (.configure 0) (ordered 0 .configure (inState .isolated))).readWord 0x110C = 4 := by decide +kernel

/-- R74: BRING_UP in VACANT ends NO_CARD: result 7 with order code 2 at 0x050. -/
theorem test_bring_up_no_card : (after (.bringUp 0) (ordered 0 .bringUp base)).readWord 0x150 = 0x00020007 := by
  decide +kernel

/-- R75: ISOLATE of an idle ONLINE group reaches ISOLATED and OK at once. -/
theorem test_isolate_idle :
    (after (.isolate 0) (ordered 0 .isolate (inState .online))).readWord 0x150 = 0x00030002 := by decide +kernel

/-- R76: RESUME puts the slot ONLINE. -/
theorem test_resume : (after (.resume 0) (ordered 0 .resume (inState .isolated))).stateOf 0 = .online := by
  decide +kernel

/-- R77, R85: RECOVER from the default start level 1 disables the link. -/
theorem test_recover :
    ((after (.recover 0) (ordered 0 .recover (inState .isolated))).slot 0).lines.linkDisabled = true := by decide +kernel

/-- R159 test 3, R77: within an automatic recovery RECOVER comes to its own rule, and in POWERING ends BUSY, result 3. -/
theorem test_recover_within_a_recovery :
    (after (.recover 0) (ordered 0 .recover (withSeq (fun q => { q with flight := .autoRecover }) (inState .powering)))).readWord
      0x150 = 0x00050003 := by decide +kernel

/-- R78: POWER_DOWN switches the rail off. -/
theorem test_power_down :
    ((after (.powerDown 0) (ordered 0 .powerDown (inState .isolated))).slot 0).lines.rail = false := by decide +kernel

/-- R100: CANCEL without a sequence ends IDLE: result 10 with order code 7. -/
theorem test_cancel_idle : (after (.cancel 0) (ordered 0 .cancel (inState .online))).readWord 0x150 = 0x0007000A := by
  decide +kernel

/-- R68: an argument above 15 stands for 15. -/
theorem test_refill :
    ((after (.refill 0) (putWord 0x144 200 (ordered 0 .refill base))).slot 0).seq.allowance = 15 := by decide +kernel

/-- R139: LOCATE with an argument other than 0 starts the locate blink. -/
theorem test_locate :
    ((after (.locate 0) (putWord 0x144 1 (ordered 0 .locate base))).slot 0).lines.indicator.pattern = .locateBlink := by
  decide +kernel

/-- R48, Table 9-6: the first listing entry: origin FABRIC 1, kind MEMORY READ 1, requester 0x0100. -/
theorem test_list_pending :
    (after (.listPending 0) (withTable [(0, fabric)] [] (ordered 0 .listPending (inState .online)))).readWord 0x240 =
      0x01000101 := by decide +kernel

/-- R172: a control reset clears RUN. -/
theorem test_control_reset : (after (.controlReset 4) base).regs.run = false := by decide +kernel

/-- R165: a consume index ahead of the produce index is ignored. -/
theorem test_consume_ahead : (after (.noticeConsumeWrite 1) base).regs.consume = 0 := by decide +kernel

/-- R170, Table 9-10: READY writes a budget total of 128 and a burst length of 8 at 0x024. -/
theorem test_ready_writes_common : (after .ready State.reset).readWord 0x24 = 0x08000080 := by decide +kernel

/-- R171, R123: with AUTOSTART a present slot is granted 16 units at READY. -/
theorem test_autostart_grants :
    (after .ready (after (.powerOnReset ⟨0x21, 0, 0, true⟩) base)).readWord 0x28 = 32 := by decide +kernel

end Sys2Proof.Tests
end

section
/-! SUPPORT. Duration codes (R1, Table 3): the values and bounds of the count N and of the step, and from them
the value and the range of a code's duration. -/

namespace Sys2Proof.Machine

/-- Table 3, column Step: each selector's step is 16 times the one before it. -/
theorem DurCode.step_eq_pow (d : DurCode) : d.step = 16 ^ (d.sel.toNat + 1) := by
  unfold DurCode.step
  split
  case isTrue h0 => rw [h0]; rfl
  case isFalse h0 =>
    split
    case isTrue h1 => rw [h1]; rfl
    case isFalse h1 =>
      split
      case isTrue h2 => rw [h2]; rfl
      case isFalse h2 =>
        have last : d.sel = 3 := by bv_omega
        rw [last]; rfl

/-- A selector has two bits, so the four rows of Table 3 bound every step. -/
theorem DurCode.step_bounds (d : DurCode) : 16 ≤ d.step ∧ d.step ≤ 65536 := by
  have row : d.sel.toNat + 1 ≤ 4 := d.sel.isLt
  rw [d.step_eq_pow]
  exact ⟨Nat.le_self_pow (by omega) 16, Nat.pow_le_pow_right (by decide) row⟩

/-- A count of 0 stands for 256, so no code has a duration of 0 (R1). -/
theorem DurCode.steps_bounds (d : DurCode) : 1 ≤ d.steps ∧ d.steps ≤ 256 := by
  unfold DurCode.steps
  split
  case isTrue => decide
  case isFalse zero =>
    have byte : d.count.toNat < 256 := d.count.isLt
    have positive : d.count.toNat ≠ 0 := fun h => zero (BitVec.eq_of_toNat_eq h)
    omega

/-- Table 3, columns Shortest and Longest: a duration lies between one step and 256 steps of its selector. -/
theorem DurCode.micros_range (d : DurCode) : d.step ≤ d.micros ∧ d.micros ≤ 256 * d.step :=
  ⟨Nat.le_mul_of_pos_left _ d.steps_bounds.1, Nat.mul_le_mul_right _ d.steps_bounds.2⟩

end Sys2Proof.Machine
end

section
/-! The obligation about duration codes. -/

namespace Sys2Proof.Machine

/-- Settles O6: the value is R1's product with Table 3's steps as powers of 16; the range is the selector's own
range between the table's shortest and longest step. -/
theorem durationCodeValues : Obligations.DurationCodeValues := by
  intro d
  obtain ⟨shortestStep, longestStep⟩ := d.step_bounds
  obtain ⟨oneStep, allSteps⟩ := d.micros_range
  have value : d.micros = d.steps * 16 ^ (d.sel.toNat + 1) := congrArg (d.steps * ·) d.step_eq_pow
  exact ⟨value, by omega, by omega⟩

end Sys2Proof.Machine
end
